-- ==== Sys2Proof/Word.lean ====
section
/-!
DEFINITION. The value types of the core (00_scope.md R7 to R9): `u8`, `u16`, `u12`, `u4`.
All values are unsigned; bit 0 is the least significant bit.
-/

namespace Sys2Proof

/-- `u8`: a register, a timer, a byte of memory or of the framebuffer. -/
abbrev Byte := BitVec 8

/-- `u16`: an instruction word (30_encoding.md R80). -/
abbrev Word := BitVec 16

/-- `u12`: a memory address, `pc`, `I`, a return address (00_scope.md R6 `ADDR_BITS`).
Sums on this type wrap modulo 4096 (20_memory.md R61). -/
abbrev Addr := BitVec 12

/-- `u4`: the index of one of V0 to VF (10_state.md R20). -/
abbrev RegIx := BitVec 4

/-- `u4`: the index of one of the 16 keys (10_state.md R32). -/
abbrev KeyIx := BitVec 4

/-- `u4`: a 4-bit field of an instruction word that names neither a register nor a key:
a sprite's height, or a nibble the decoder ignores (30_encoding.md R81, R89). -/
abbrev Nibble := BitVec 4

/-- `VF`, the flag register (10_state.md R21). -/
abbrev VF : RegIx := 0xF#4

end Sys2Proof
end

