-- ==== Sys2Proof/Syntax.lean ====
section
/-!
DEFINITION. The 35 instructions of 30_encoding.md R90, one constructor per row of
spec/opcode_table.json, with the operands of 00_scope.md R12.
Every bit of a word that the row's pattern leaves free is an operand here, the ignored ones too
(`n` of SE_REG and SNE_REG, R89; `y` of SRL and SLL, R178 and R180): log entry 9.
-/

namespace Sys2Proof

/-- The five decoder families (30_encoding.md R83). -/
inductive Family where
  | machine
  | singlePurpose
  | alu
  | key
  | control
deriving DecidableEq, Repr

/-- The closed sum type of the 35 instructions (40_engine.md R113). -/
inductive Instr where
  /-- `0nnn` SYS nnn (41_machine_family.md R131). -/
  | sys (nnn : Addr)
  /-- `00E0` CLS (R132). -/
  | cls
  /-- `00EE` RET (R133). -/
  | ret
  /-- `1nnn` JP nnn (42_single_purpose.md R141). -/
  | jp (nnn : Addr)
  /-- `2nnn` CALL nnn (R142). -/
  | call (nnn : Addr)
  /-- `3xkk` SE Vx, kk (R143). -/
  | seImm (x : RegIx) (kk : Byte)
  /-- `4xkk` SNE Vx, kk (R144). -/
  | sneImm (x : RegIx) (kk : Byte)
  /-- `5xyn` SE Vx, Vy; `n` is ignored (R145, 30_encoding.md R89). -/
  | seReg (x y : RegIx) (n : Nibble)
  /-- `6xkk` LD Vx, kk (R146). -/
  | ldImm (x : RegIx) (kk : Byte)
  /-- `7xkk` ADD Vx, kk (R147). -/
  | addImm (x : RegIx) (kk : Byte)
  /-- `8xy0` MOV Vx, Vy (43_alu_family.md R172). -/
  | mov (x y : RegIx)
  /-- `8xy1` OR Vx, Vy (R173). -/
  | orReg (x y : RegIx)
  /-- `8xy2` AND Vx, Vy (R174). -/
  | andReg (x y : RegIx)
  /-- `8xy3` XOR Vx, Vy (R175). -/
  | xorReg (x y : RegIx)
  /-- `8xy4` ADD Vx, Vy (R176). -/
  | addReg (x y : RegIx)
  /-- `8xy5` SUB Vx, Vy (R177). -/
  | subReg (x y : RegIx)
  /-- `8xy6` SRL Vx, Vy; `y` is decoded but not read (R178). -/
  | srl (x y : RegIx)
  /-- `8xy7` SUBN Vx, Vy (R179). -/
  | subnReg (x y : RegIx)
  /-- `8xyE` SLL Vx, Vy; `y` is decoded but not read (R180). -/
  | sll (x y : RegIx)
  /-- `9xyn` SNE Vx, Vy; `n` is ignored (R148, 30_encoding.md R89). -/
  | sneReg (x y : RegIx) (n : Nibble)
  /-- `Annn` LD I, nnn (R149). -/
  | ldI (nnn : Addr)
  /-- `Bnnn` JP V0, nnn (R150). -/
  | jpV0 (nnn : Addr)
  /-- `Cxkk` RND Vx, kk (R151). -/
  | rnd (x : RegIx) (kk : Byte)
  /-- `Dxyn` DRW Vx, Vy, n (44_sprite_renderer.md R190). -/
  | drw (x y : RegIx) (n : Nibble)
  /-- `Ex9E` SKP Vx (45_key_family.md R211). -/
  | skp (x : RegIx)
  /-- `ExA1` SKNP Vx (R212). -/
  | sknp (x : RegIx)
  /-- `Fx07` LD Vx, DT (46_control_family.md R221). -/
  | ldVxDt (x : RegIx)
  /-- `Fx0A` LD Vx, K (R222). -/
  | ldVxK (x : RegIx)
  /-- `Fx15` LD DT, Vx (R223). -/
  | ldDtVx (x : RegIx)
  /-- `Fx18` LD ST, Vx (R224). -/
  | ldStVx (x : RegIx)
  /-- `Fx1E` ADD I, Vx (R225). -/
  | addIVx (x : RegIx)
  /-- `Fx29` LD F, Vx (R226). -/
  | ldFVx (x : RegIx)
  /-- `Fx33` LD B, Vx (R227). -/
  | ldBVx (x : RegIx)
  /-- `Fx55` LD [I], Vx (R228). -/
  | ldMemVx (x : RegIx)
  /-- `Fx65` LD Vx, [I] (R229). -/
  | ldVxMem (x : RegIx)
deriving DecidableEq, Repr

end Sys2Proof
end

