-- ==== Sys2Proof/WellFormed.lean ====
section
/-!
DEFINITION. Which terms of `Instr` are instructions of the hardware. Every operand's type already
has exactly the width of its field (30_encoding.md R82), so one relation is left to check: the words
0x00E0 and 0x00EE are CLS and RET, never SYS (30_encoding.md R84). See log entry 10.
-/

namespace Sys2Proof

/-- SYS stands for every word `0nnn` but 0x00E0 and 0x00EE (30_encoding.md R84);
every other constructor is well formed at all operands. -/
def Instr.wellFormed : Instr → Bool
  | .sys nnn => nnn != 0x0E0#12 && nnn != 0x0EE#12
  | .cls | .ret | .jp _ | .call _ | .seImm _ _ | .sneImm _ _ | .seReg _ _ _ | .ldImm _ _ => true
  | .addImm _ _ | .mov _ _ | .orReg _ _ | .andReg _ _ | .xorReg _ _ | .addReg _ _ => true
  | .subReg _ _ | .srl _ _ | .subnReg _ _ | .sll _ _ | .sneReg _ _ _ | .ldI _ | .jpV0 _ => true
  | .rnd _ _ | .drw _ _ _ | .skp _ | .sknp _ | .ldVxDt _ | .ldVxK _ | .ldDtVx _ => true
  | .ldStVx _ | .addIVx _ | .ldFVx _ | .ldBVx _ | .ldMemVx _ | .ldVxMem _ => true

end Sys2Proof
end

