-- ==== Sys2Proof/Decode.lean ====
section
/-!
DEFINITION. The decoder and the encoder (30_encoding.md).
`decode` is total on 16-bit words and pure (R88): each word is one of the 35 instructions, or
`unrecognized` with its family. The encoder after it is written from R81 and R90.
-/

namespace Sys2Proof

/-- `w[15:12]`, the family select (30_encoding.md R83). -/
def fieldTop (w : Word) : Nibble := w.extractLsb' 12 4

/-- `x = w[11:8]` (00_scope.md R12). -/
def fieldX (w : Word) : RegIx := w.extractLsb' 8 4

/-- `y = w[7:4]` (00_scope.md R12). -/
def fieldY (w : Word) : RegIx := w.extractLsb' 4 4

/-- `n = w[3:0]` (00_scope.md R12). -/
def fieldN (w : Word) : Nibble := w.extractLsb' 0 4

/-- `kk = w[7:0]` (00_scope.md R12). -/
def fieldKK (w : Word) : Byte := w.extractLsb' 0 8

/-- `nnn = w[11:0]` (00_scope.md R12). -/
def fieldNNN (w : Word) : Addr := w.extractLsb' 0 12

/-- What the decoder yields: an instruction, or `Unrecognized(family, w)` (30_encoding.md R88). -/
inductive Decoded where
  | instr (i : Instr)
  | unrecognized (f : Family) (w : Word)
deriving DecidableEq, Repr

/-- Machine family: all 12 low bits select (30_encoding.md R84). -/
def decodeMachine (w : Word) : Decoded :=
  if fieldNNN w = 0x0E0#12 then .instr .cls
  else if fieldNNN w = 0x0EE#12 then .instr .ret
  else .instr (.sys (fieldNNN w))

/-- ALU family: `w[3:0]` selects (30_encoding.md R85). -/
def decodeAlu (w : Word) : Decoded :=
  if fieldN w = 0x0#4 then .instr (.mov (fieldX w) (fieldY w))
  else if fieldN w = 0x1#4 then .instr (.orReg (fieldX w) (fieldY w))
  else if fieldN w = 0x2#4 then .instr (.andReg (fieldX w) (fieldY w))
  else if fieldN w = 0x3#4 then .instr (.xorReg (fieldX w) (fieldY w))
  else if fieldN w = 0x4#4 then .instr (.addReg (fieldX w) (fieldY w))
  else if fieldN w = 0x5#4 then .instr (.subReg (fieldX w) (fieldY w))
  else if fieldN w = 0x6#4 then .instr (.srl (fieldX w) (fieldY w))
  else if fieldN w = 0x7#4 then .instr (.subnReg (fieldX w) (fieldY w))
  else if fieldN w = 0xE#4 then .instr (.sll (fieldX w) (fieldY w))
  else .unrecognized .alu w

/-- Key family: `w[7:0]` selects (30_encoding.md R86). -/
def decodeKey (w : Word) : Decoded :=
  if fieldKK w = 0x9E#8 then .instr (.skp (fieldX w))
  else if fieldKK w = 0xA1#8 then .instr (.sknp (fieldX w))
  else .unrecognized .key w

/-- Control family: `w[7:0]` selects (30_encoding.md R87). -/
def decodeControl (w : Word) : Decoded :=
  if fieldKK w = 0x07#8 then .instr (.ldVxDt (fieldX w))
  else if fieldKK w = 0x0A#8 then .instr (.ldVxK (fieldX w))
  else if fieldKK w = 0x15#8 then .instr (.ldDtVx (fieldX w))
  else if fieldKK w = 0x18#8 then .instr (.ldStVx (fieldX w))
  else if fieldKK w = 0x1E#8 then .instr (.addIVx (fieldX w))
  else if fieldKK w = 0x29#8 then .instr (.ldFVx (fieldX w))
  else if fieldKK w = 0x33#8 then .instr (.ldBVx (fieldX w))
  else if fieldKK w = 0x55#8 then .instr (.ldMemVx (fieldX w))
  else if fieldKK w = 0x65#8 then .instr (.ldVxMem (fieldX w))
  else .unrecognized .control w

/-- `decode(w)` of 40_engine.md R113: the family by the top nibble (30_encoding.md R83); a
single-purpose code by the top nibble alone (R89). -/
def decode (w : Word) : Decoded :=
  if fieldTop w = 0x0#4 then decodeMachine w
  else if fieldTop w = 0x1#4 then .instr (.jp (fieldNNN w))
  else if fieldTop w = 0x2#4 then .instr (.call (fieldNNN w))
  else if fieldTop w = 0x3#4 then .instr (.seImm (fieldX w) (fieldKK w))
  else if fieldTop w = 0x4#4 then .instr (.sneImm (fieldX w) (fieldKK w))
  else if fieldTop w = 0x5#4 then .instr (.seReg (fieldX w) (fieldY w) (fieldN w))
  else if fieldTop w = 0x6#4 then .instr (.ldImm (fieldX w) (fieldKK w))
  else if fieldTop w = 0x7#4 then .instr (.addImm (fieldX w) (fieldKK w))
  else if fieldTop w = 0x8#4 then decodeAlu w
  else if fieldTop w = 0x9#4 then .instr (.sneReg (fieldX w) (fieldY w) (fieldN w))
  else if fieldTop w = 0xA#4 then .instr (.ldI (fieldNNN w))
  else if fieldTop w = 0xB#4 then .instr (.jpV0 (fieldNNN w))
  else if fieldTop w = 0xC#4 then .instr (.rnd (fieldX w) (fieldKK w))
  else if fieldTop w = 0xD#4 then .instr (.drw (fieldX w) (fieldY w) (fieldN w))
  else if fieldTop w = 0xE#4 then decodeKey w
  else decodeControl w

/-- Two bytes joined high byte first (20_memory.md R63). -/
def joinBytes (hi lo : Byte) : Word := hi ++ lo

/-- `w[15:8]`, the byte at the lower address (20_memory.md R63). -/
def highByte (w : Word) : Byte := w.extractLsb' 8 8

/-- `w[7:0]`, the byte at the higher address (20_memory.md R63). -/
def lowByte (w : Word) : Byte := w.extractLsb' 0 8

/-- What decoding the front of a byte string yields: too few bytes for one word, or the decoded word
and the bytes after it (every instruction is two bytes, 30_encoding.md R80). -/
inductive BytesDecoded where
  | truncated
  | decoded (d : Decoded) (rest : List Byte)
deriving DecidableEq, Repr

/-- The decoder on a string of bytes, total. -/
def decodeBytes : List Byte → BytesDecoded
  | hi :: lo :: rest => .decoded (decode (joinBytes hi lo)) rest
  | _ => .truncated

/-- Format `NNN` (30_encoding.md R81). -/
def packNNN (top : Nibble) (nnn : Addr) : Word := top ++ nnn

/-- Formats `XKK` and `XS` (30_encoding.md R81). -/
def packXKK (top : Nibble) (x : RegIx) (kk : Byte) : Word := top ++ x ++ kk

/-- Formats `XY` and `XYN` (30_encoding.md R81). -/
def packXYN (top : Nibble) (x y : RegIx) (n : Nibble) : Word := top ++ x ++ y ++ n

/-- The word of an instruction, from the formats of 30_encoding.md R81 and the patterns of R90. -/
def encode : Instr → Word
  | .sys nnn => packNNN 0x0 nnn
  | .cls => 0x00E0
  | .ret => 0x00EE
  | .jp nnn => packNNN 0x1 nnn
  | .call nnn => packNNN 0x2 nnn
  | .seImm x kk => packXKK 0x3 x kk
  | .sneImm x kk => packXKK 0x4 x kk
  | .seReg x y n => packXYN 0x5 x y n
  | .ldImm x kk => packXKK 0x6 x kk
  | .addImm x kk => packXKK 0x7 x kk
  | .mov x y => packXYN 0x8 x y 0x0
  | .orReg x y => packXYN 0x8 x y 0x1
  | .andReg x y => packXYN 0x8 x y 0x2
  | .xorReg x y => packXYN 0x8 x y 0x3
  | .addReg x y => packXYN 0x8 x y 0x4
  | .subReg x y => packXYN 0x8 x y 0x5
  | .srl x y => packXYN 0x8 x y 0x6
  | .subnReg x y => packXYN 0x8 x y 0x7
  | .sll x y => packXYN 0x8 x y 0xE
  | .sneReg x y n => packXYN 0x9 x y n
  | .ldI nnn => packNNN 0xA nnn
  | .jpV0 nnn => packNNN 0xB nnn
  | .rnd x kk => packXKK 0xC x kk
  | .drw x y n => packXYN 0xD x y n
  | .skp x => packXKK 0xE x 0x9E
  | .sknp x => packXKK 0xE x 0xA1
  | .ldVxDt x => packXKK 0xF x 0x07
  | .ldVxK x => packXKK 0xF x 0x0A
  | .ldDtVx x => packXKK 0xF x 0x15
  | .ldStVx x => packXKK 0xF x 0x18
  | .addIVx x => packXKK 0xF x 0x1E
  | .ldFVx x => packXKK 0xF x 0x29
  | .ldBVx x => packXKK 0xF x 0x33
  | .ldMemVx x => packXKK 0xF x 0x55
  | .ldVxMem x => packXKK 0xF x 0x65

/-- The match and the mask of the instruction's row in the table of 30_encoding.md R90. -/
def tableRow : Instr → Word × Word
  | .sys _ => (0x0000, 0xF000)
  | .cls => (0x00E0, 0xFFFF)
  | .ret => (0x00EE, 0xFFFF)
  | .jp _ => (0x1000, 0xF000)
  | .call _ => (0x2000, 0xF000)
  | .seImm _ _ => (0x3000, 0xF000)
  | .sneImm _ _ => (0x4000, 0xF000)
  | .seReg _ _ _ => (0x5000, 0xF000)
  | .ldImm _ _ => (0x6000, 0xF000)
  | .addImm _ _ => (0x7000, 0xF000)
  | .mov _ _ => (0x8000, 0xF00F)
  | .orReg _ _ => (0x8001, 0xF00F)
  | .andReg _ _ => (0x8002, 0xF00F)
  | .xorReg _ _ => (0x8003, 0xF00F)
  | .addReg _ _ => (0x8004, 0xF00F)
  | .subReg _ _ => (0x8005, 0xF00F)
  | .srl _ _ => (0x8006, 0xF00F)
  | .subnReg _ _ => (0x8007, 0xF00F)
  | .sll _ _ => (0x800E, 0xF00F)
  | .sneReg _ _ _ => (0x9000, 0xF000)
  | .ldI _ => (0xA000, 0xF000)
  | .jpV0 _ => (0xB000, 0xF000)
  | .rnd _ _ => (0xC000, 0xF000)
  | .drw _ _ _ => (0xD000, 0xF000)
  | .skp _ => (0xE09E, 0xF0FF)
  | .sknp _ => (0xE0A1, 0xF0FF)
  | .ldVxDt _ => (0xF007, 0xF0FF)
  | .ldVxK _ => (0xF00A, 0xF0FF)
  | .ldDtVx _ => (0xF015, 0xF0FF)
  | .ldStVx _ => (0xF018, 0xF0FF)
  | .addIVx _ => (0xF01E, 0xF0FF)
  | .ldFVx _ => (0xF029, 0xF0FF)
  | .ldBVx _ => (0xF033, 0xF0FF)
  | .ldMemVx _ => (0xF055, 0xF0FF)
  | .ldVxMem _ => (0xF065, 0xF0FF)

/-- The two bytes of a word as the hardware stores them, the high one at the lower address
(20_memory.md R62). -/
def wordBytes (w : Word) : List Byte := [highByte w, lowByte w]

/-- The word that spec/opcode_table.json's bit numbers give: bit 0 is the least significant bit of the
one 16-bit word; bits from `nbits` up are 0. -/
def tableWord (nbits w : Nat) : Word := BitVec.ofNat 16 (w % 2 ^ nbits)

/-- The instruction the decoder reads from a table word's bytes; `none` where the decoder refuses.
An instruction is one 16-bit word (30_encoding.md R80), so no longer row exists. -/
def decodeTableWord (nbits w : Nat) : Option Instr :=
  if 16 < nbits then none
  else
    match decodeBytes (wordBytes (tableWord nbits w)) with
    | .decoded (.instr i) _ => some i
    | .decoded (.unrecognized _ _) _ => none
    | .truncated => none

end Sys2Proof
end

