-- ==== Sys2Proof/Config.lean ====
section
/-!
DEFINITION. What is fixed for one machine and is no state of it (00_scope.md R6, 10_state.md R39):
the parameters, and the free byte that RND draws. The parameters' default values stand in
Machine/Defaults.lean.
-/

namespace Sys2Proof

/-- The parameters of 00_scope.md R6 that have a value per machine (`CYCLES_PER_TICK` has none: every
interleaving of cycles and ticks is admitted, log entry 2).
State carries this record unchanged (log entry 1). -/
structure Config where
  /-- `STACK_DEPTH`: `none` is the default, unbounded (10_state.md R29). -/
  stackDepth : Option Nat
  /-- `FONT`: 16 glyphs of 5 bytes, placed at 0x000 (10_state.md R33). -/
  font : Vector Byte 80
  /-- `ENFORCE_EVEN_PC` (10_state.md R23). -/
  enforceEvenPc : Bool
  /-- `SYS_AS_NOP` (41_machine_family.md R131). -/
  sysAsNop : Bool
deriving DecidableEq, Repr

/-- The `RAND` oracle (10_state.md R54): the byte of the k-th draw, under no law.
FREE VALUE: it has no body, so nothing can be proved about any draw (log entry 3). -/
opaque Config.rand8 : Nat → Byte

end Sys2Proof
end

