-- ==== Sys2Proof/Machine/State.lean ====
section
/-!
DEFINITION. The whole state of the core as plain data (10_state.md), and the state after reset (R40).
Three fields are not of the spec's state tuple: `cfg` (the parameters, log entry 1), `events` (the
host's events still to come, log entry 2) and `draws` (the count of RND draws, log entry 3).
-/

namespace Sys2Proof.Machine

/-- The engine state (10_state.md R35). -/
inductive RunState where
  | running
  | awaitingKey
  | faulted
deriving DecidableEq, Repr

/-- The kinds of fatal error (60_exceptions.md R252). -/
inductive FaultKind where
  /-- RET with an empty call stack. -/
  | stackUnderflow
  /-- A word of 30_encoding.md R91 was executed. -/
  | unrecognizedSubOpcode
  /-- SYS with `SYS_AS_NOP = false`. -/
  | unsupportedSys
  /-- A control transfer to an odd address with `ENFORCE_EVEN_PC = true`. -/
  | misalignedPc
  /-- CALL onto a full stack of finite `STACK_DEPTH`. -/
  | stackOverflow
deriving DecidableEq, Repr

/-- One event the host issues (10_state.md R50 to R56); each is one atomic transition
(20_memory.md R70). -/
inductive Event where
  | cycle
  | tick
  | setKey (k : KeyIx) (pressed : Bool)
  | load (image : List Byte)
deriving DecidableEq, Repr

/-- The listed bytes of memory, an address and its byte each (log entry 7).
Its canonical form is `Memory.wf` in Machine/Ops.lean. -/
abbrev Memory := List Host.Cell

/-- The framebuffer's 256 bytes (10_state.md R31). -/
abbrev FrameBuffer := Vector Byte 256

/-- The state of 10_state.md, and the three fields of the model's own. -/
structure State where
  /-- `mem` (10_state.md R33): the bytes that differ from their reset contents. -/
  mem : Memory
  /-- `V0` to `VF` (R20). -/
  v : Vector Byte 16
  /-- `I`; bits 15:12 of its 16-bit storage are hard-wired to 0 and not stored (R24, log entry 8). -/
  i : Addr
  /-- `pc` (R22). -/
  pc : Addr
  /-- The call stack, its top at the head (R29). -/
  stack : List Addr
  /-- The delay timer `DT` (R27). -/
  dt : Byte
  /-- The sound timer `ST` (R27). -/
  st : Byte
  /-- `key[0]` to `key[15]` (R32). -/
  key : Vector Bool 16
  /-- `FB[0]` to `FB[255]` (R31). -/
  fb : FrameBuffer
  /-- The run state (R35). -/
  run : RunState
  /-- The register that receives the awaited key (R36). -/
  awaitReg : RegIx
  /-- The fault register (R37). -/
  fault : Option FaultKind
  /-- The machine's parameters (00_scope.md R6); no step changes them (log entry 1). -/
  cfg : Config
  /-- The host's events still to come, the next one first (log entry 2). -/
  events : List Event
  /-- How many bytes RND has drawn (log entry 3). -/
  draws : Nat
deriving DecidableEq, Repr

/-- The reasons a step ends in a fault: NONE. A fatal error of the spec is a next state whose `run` is
`faulted` (40_engine.md R116), memory accesses cannot fault (20_memory.md R61), and nothing else is a
fault (60_exceptions.md R252). Safe: the model never stops (log entry 6). -/
inductive Fault where
deriving DecidableEq, Repr

/-- The reasons a step is refused. -/
inductive Refusal where
  /-- Raised by an arm of `exec` whose instruction has no meaning yet: no arm is left so. Safe. -/
  | notModelled (mnemonic : String)
deriving DecidableEq, Repr

/-- The state after reset (10_state.md R40) with no image loaded: the machine as created,
"zero-initialized and font-seeded" (log entry 4). -/
def State.reset : State where
  mem := []
  v := Vector.replicate 16 0
  i := 0x000
  pc := 0x200
  stack := []
  dt := 0
  st := 0
  key := Vector.replicate 16 false
  fb := Vector.replicate 256 0
  run := .running
  awaitReg := 0
  fault := none
  cfg := defaultConfig
  events := []
  draws := 0

end Sys2Proof.Machine
end

