-- ==== Sys2Proof/Machine/Ops.lean ====
section
/-!
DEFINITION. The named operations over memory, registers, the stack, the framebuffer and the keys, and
the outcomes that end an instruction, the fatal stop among them (00_scope.md R10, 20_memory.md,
40_engine.md R114, 60_exceptions.md).
-/

namespace Sys2Proof.Machine

/-! ### Memory (20_memory.md R60 to R63) -/

/-- What an address that memory does not list reads as: the reset contents of 10_state.md R40,
`FONT` from 0x000 to 0x04F and 0x00 above. -/
def unlistedByte (cfg : Config) (a : Nat) : Byte :=
  if h : a < 80 then cfg.font[a] else 0x00

/-- The byte listed at an address. -/
def Memory.lookup : Memory → Nat → Option Byte
  | [], _ => none
  | (k, b) :: m, a => if k = a then some b else Memory.lookup m a

/-- List a byte at its place, replacing the one listed at that address. -/
def Memory.put (a : Nat) (b : Byte) : Memory → Memory
  | [] => [(a, b)]
  | (k, c) :: m =>
    if a < k then (a, b) :: (k, c) :: m
    else if a = k then (a, b) :: m
    else (k, c) :: Memory.put a b m

/-- Take an address out of the list. -/
def Memory.erase (a : Nat) : Memory → Memory
  | [] => []
  | (k, c) :: m => if k = a then Memory.erase a m else (k, c) :: Memory.erase a m

/-- Read one byte. -/
def Memory.read (cfg : Config) (m : Memory) (a : Nat) : Byte :=
  (Memory.lookup m a).getD (unlistedByte cfg a)

/-- Write one byte and keep the canonical form: writing what an unlisted address reads as takes the
entry out. -/
def Memory.write (cfg : Config) (m : Memory) (a : Nat) (b : Byte) : Memory :=
  if b = unlistedByte cfg a then Memory.erase a m else Memory.put a b m

/-- The canonical form: addresses strictly rising and below 4096, no entry equal to what an unlisted
address reads as. -/
abbrev Memory.wf (cfg : Config) (m : Memory) : Prop :=
  m.Pairwise (fun c d => c.1 < d.1) ∧ ∀ c ∈ m, c.1 < 4096 ∧ c.2 ≠ unlistedByte cfg c.1

/-- Write a string of bytes at consecutive addresses (70_reset_and_hazards.md R280). -/
def Memory.place (cfg : Config) (a : Nat) : List Byte → Memory → Memory
  | [], m => m
  | b :: bs, m => Memory.write cfg (Memory.place cfg (a + 1) bs m) a b

/-- `MemRead(a, 1)` (20_memory.md R61); a `u12` is already reduced mod 4096. -/
def State.memRead (s : State) (a : Addr) : Byte := Memory.read s.cfg s.mem a.toNat

/-- `MemWrite(a, 1, v)` (20_memory.md R61). -/
def State.memWrite (s : State) (a : Addr) (b : Byte) : State :=
  { s with mem := Memory.write s.cfg s.mem a.toNat b }

/-- `Fetch16(a)`: big-endian, the low byte at `(a + 1) mod 4096` (20_memory.md R63). -/
def State.fetch16 (s : State) (a : Addr) : Word := joinBytes (s.memRead a) (s.memRead (a + 1))

/-! ### Registers, index register and timers (10_state.md R20 to R28) -/

/-- `V[x]` (10_state.md R20). -/
def State.reg (s : State) (x : RegIx) : Byte := s.v[x.toNat]'x.isLt

/-- `V[x] <- b` (10_state.md R20). -/
def State.setReg (s : State) (x : RegIx) (b : Byte) : State :=
  { s with v := s.v.set x.toNat b x.isLt }

/-- `I <- a` (10_state.md R24). -/
def State.setI (s : State) (a : Addr) : State := { s with i := a }

/-- `DT <- b` (10_state.md R28). -/
def State.setDT (s : State) (b : Byte) : State := { s with dt := b }

/-- `ST <- b` (10_state.md R28). -/
def State.setST (s : State) (b : Byte) : State := { s with st := b }

/-- `pc <- t` (10_state.md R22). -/
def State.setPc (s : State) (t : Addr) : State := { s with pc := t }

/-! ### Call stack (10_state.md R29, R30) -/

/-- `stack <- l`. -/
def State.setStack (s : State) (l : List Addr) : State := { s with stack := l }

/-- Whether `push` would raise StackOverflow (10_state.md R29). -/
def State.stackFull (s : State) : Bool :=
  match s.cfg.stackDepth with
  | none => false
  | some d => s.stack.length == d

/-- `push(a)` onto a stack that is not full (10_state.md R29). -/
def State.push (s : State) (a : Addr) : State := s.setStack (a :: s.stack)

/-! ### Framebuffer (10_state.md R31) -/

/-- `FB[b]`, for `b < 256`. -/
def fbRead (fb : FrameBuffer) (b : Nat) : Byte := fb[b]?.getD 0x00

/-- `FB[b] <- v`, for `b < 256`. -/
def fbWrite (fb : FrameBuffer) (b : Nat) (v : Byte) : FrameBuffer := fb.setIfInBounds b v

/-- `FB <- f`. -/
def State.setFB (s : State) (f : FrameBuffer) : State := { s with fb := f }

/-- `pixel(x, y)` for `x < 64` and `y < 32`: byte `8*y + x/8`, bit `7 - (x mod 8)` (10_state.md R31). -/
def pixel (fb : FrameBuffer) (x y : Nat) : Bool := (fbRead fb (8 * y + x / 8)).getLsbD (7 - x % 8)

/-! ### Keys (10_state.md R32) -/

/-- `key[k]`. -/
def State.keyDown (s : State) (k : KeyIx) : Bool := s.key[k.toNat]'k.isLt

/-- `key[k] <- pressed` (10_state.md R52). -/
def State.setKeyDown (s : State) (k : KeyIx) (pressed : Bool) : State :=
  { s with key := s.key.set k.toNat pressed k.isLt }

/-- The 16 key numbers in ascending order. -/
def allKeys : List KeyIx := (List.range 16).map (BitVec.ofNat 4)

/-- `min { k | key[k] }`, if some key is pressed (40_engine.md R117). -/
def State.lowestKey (s : State) : Option KeyIx := allKeys.find? s.keyDown

/-! ### The fatal stop (60_exceptions.md R250 to R254) and the outcomes (40_engine.md R114) -/

/-- Taking the core's one exception, `raise Fatal(k)`: `run <- Faulted`, `fault <- some k`, and no other
change, so `pc` keeps the address of the failing instruction (40_engine.md R116, 60_exceptions.md R251).
There is no return from it: only `load` leaves Faulted (60_exceptions.md R259, Machine/Ports.lean). -/
def State.raiseFatal (s : State) (k : FaultKind) : State :=
  { s with run := .faulted, fault := some k }

/-- Entering the key wait: `awaitReg <- r`, `run <- AwaitingKey`, `pc` unchanged (40_engine.md R114). -/
def State.startWait (s : State) (r : RegIx) : State :=
  { s with awaitReg := r, run := .awaitingKey }

/-- Leaving the key wait: `run <- Running` (40_engine.md R117). -/
def State.resume (s : State) : State := { s with run := .running }

/-- The code of a fault kind (60_exceptions.md R252). -/
def FaultKind.code : FaultKind → Nat
  | .stackUnderflow => 1
  | .unrecognizedSubOpcode => 2
  | .unsupportedSys => 3
  | .misalignedPc => 4
  | .stackOverflow => 5

/-- The outcomes of 40_engine.md R114. -/
inductive PcOutcome where
  | next
  | skip
  | jump (t : Addr)
  | wait (r : RegIx)
  | fatal (k : FaultKind)
deriving DecidableEq, Repr

/-- What an outcome does to the state, after the instruction's other writes (40_engine.md R110, R114). -/
def PcOutcome.apply : PcOutcome → State → State
  | .next, s => s.setPc (s.pc + 2)
  | .skip, s => s.setPc (s.pc + 4)
  | .jump t, s => s.setPc t
  | .wait r, s => s.startWait r
  | .fatal k, s => s.raiseFatal k

/-- End an instruction. Every outcome of the spec, the fatal one too, is a next state (log entry 6). -/
def finish (o : PcOutcome) (s : State) : Host.Outcome State Fault Refusal := .next (o.apply s)

/-- The outcome of a conditional skip (40_engine.md R114). -/
def skipIf (c : Bool) : PcOutcome := if c then .skip else .next

/-- Whether a control transfer to `t` raises MisalignedPc (10_state.md R23). -/
def State.misaligned (s : State) (t : Addr) : Bool := s.cfg.enforceEvenPc && t.toNat % 2 == 1

/-! ### The RAND oracle (10_state.md R54) -/

/-- The byte the next RND draws: a free value (log entry 3). -/
def State.nextDraw (s : State) : Byte := Config.rand8 s.draws

/-- One draw is consumed (42_single_purpose.md R151). -/
def State.consumeDraw (s : State) : State := { s with draws := s.draws + 1 }

end Sys2Proof.Machine
end

