-- ==== Sys2Proof/Machine/Operands.lean ====
section
/-!
DEFINITION. The operands an instruction computes from registers: targets, addresses, digits, the key
tested, the sprite's origin. None changes the state.
-/

namespace Sys2Proof.Machine

/-- JP_V0's target, `(nnn + V[0]) mod 4096` (42_single_purpose.md R150). -/
def State.offsetTarget (s : State) (nnn : Addr) : Addr := nnn + (s.reg 0x0#4).setWidth 12

/-- The address of the next instruction, which CALL pushes (42_single_purpose.md R142). -/
def State.returnAddr (s : State) : Addr := s.pc + 2

/-- The address `I + k`, mod 4096 (20_memory.md R61, R67). -/
def State.indexed (s : State) (k : Nat) : Addr := s.i + BitVec.ofNat 12 k

/-- ADD_I_VX's sum, `(I + V[x]) mod 4096` (46_control_family.md R225). -/
def State.indexPlusReg (s : State) (x : RegIx) : Addr := s.i + (s.reg x).setWidth 12

/-- The low nibble of a register, `V[x] & 0x0F`: the key of SKP and SKNP (45_key_family.md R213), the
digit of LD_F_VX (46_control_family.md R226). -/
def State.lowNibble (s : State) (x : RegIx) : Nibble := (s.reg x).extractLsb' 0 4

/-- The glyph's address, `FONT_BASE + 5 * d` with `FONT_BASE = 0x000` (46_control_family.md R226). -/
def glyphAddr (d : Nibble) : Addr := BitVec.ofNat 12 (0x000 + 5 * d.toNat)

/-- The hundreds, tens and ones of a byte, hundreds first (46_control_family.md R227). -/
def bcdDigits (b : Byte) : Byte × Byte × Byte :=
  (BitVec.ofNat 8 (b.toNat / 100), BitVec.ofNat 8 (b.toNat / 10 % 10), BitVec.ofNat 8 (b.toNat % 10))

/-- The sprite's origin column, `V[x] mod 64` (44_sprite_renderer.md R191). -/
def State.originX (s : State) (x : RegIx) : Nat := (s.reg x).toNat % 64

/-- The sprite's origin row, `V[y] mod 32` (44_sprite_renderer.md R191). -/
def State.originY (s : State) (y : RegIx) : Nat := (s.reg y).toNat % 32

/-- RND's result, `r & kk` (42_single_purpose.md R151). -/
def maskedDraw (r kk : Byte) : Byte := r &&& kk

end Sys2Proof.Machine
end

