-- ==== Sys2Proof/Machine/Flags.lean ====
section
/-!
DEFINITION. Every value an instruction writes into VF as a flag (10_state.md R21), and the results the
flags go with. A flag is computed from the operands as they stood before any write (43_alu_family.md R170).
-/

namespace Sys2Proof.Machine

/-- A flag as VF holds it: 1 or 0. -/
def flagByte (c : Bool) : Byte := if c then 1 else 0

/-- ADD's carry: the unbounded sum exceeds 255 (43_alu_family.md R176). -/
def carryFlag (a b : Byte) : Byte := flagByte (a.toNat + b.toNat > 255)

/-- NOT borrow of `a - b`: 0 iff `b > a` (43_alu_family.md R177, R179 with the operands exchanged). -/
def notBorrowFlag (a b : Byte) : Byte := flagByte (!(b.toNat > a.toNat))

/-- SRL's flag, the bit shifted out: bit 0 (43_alu_family.md R178). -/
def shiftedOutLow (a : Byte) : Byte := a &&& 1

/-- SLL's flag, the bit shifted out: bit 7 (43_alu_family.md R180). -/
def shiftedOutHigh (a : Byte) : Byte := (a >>> 7) &&& 1

/-- DRW's collision flag (44_sprite_renderer.md R194). -/
def collisionFlag (hit : Bool) : Byte := flagByte hit

/-- The end of a flag-writing ALU instruction: the result first, VF last, so VF keeps the flag when
`x = F` (43_alu_family.md R171). -/
def State.writeResultThenFlag (s : State) (x : RegIx) (result flag : Byte) : State :=
  (s.setReg x result).setReg VF flag

end Sys2Proof.Machine
end

