-- ==== Sys2Proof/Machine/Alu.lean ====
section
/-!
DEFINITION. The ALU family (43_alu_family.md). Operands are read before any write (R170); the flag is
written last (R171).
-/

namespace Sys2Proof.Machine

/-- MOV (R172). -/
def execMov (x y : RegIx) (s : State) : Host.Outcome State Fault Refusal :=
  finish .next (s.setReg x (s.reg y))

/-- OR (R173): VF is no flag here. -/
def execOr (x y : RegIx) (s : State) : Host.Outcome State Fault Refusal :=
  finish .next (s.setReg x (s.reg x ||| s.reg y))

/-- AND (R174). -/
def execAnd (x y : RegIx) (s : State) : Host.Outcome State Fault Refusal :=
  finish .next (s.setReg x (s.reg x &&& s.reg y))

/-- XOR (R175). -/
def execXor (x y : RegIx) (s : State) : Host.Outcome State Fault Refusal :=
  finish .next (s.setReg x (s.reg x ^^^ s.reg y))

/-- ADD (R176). -/
def execAdd (x y : RegIx) (s : State) : Host.Outcome State Fault Refusal :=
  finish .next (s.writeResultThenFlag x (s.reg x + s.reg y) (carryFlag (s.reg x) (s.reg y)))

/-- SUB (R177): `V[x] - V[y]`. -/
def execSub (x y : RegIx) (s : State) : Host.Outcome State Fault Refusal :=
  finish .next (s.writeResultThenFlag x (s.reg x - s.reg y) (notBorrowFlag (s.reg x) (s.reg y)))

/-- SRL (R178): the source is `V[x]`; `V[y]` is not read. -/
def execSrl (x _y : RegIx) (s : State) : Host.Outcome State Fault Refusal :=
  finish .next (s.writeResultThenFlag x (s.reg x >>> 1) (shiftedOutLow (s.reg x)))

/-- SUBN (R179): `V[y] - V[x]`. -/
def execSubn (x y : RegIx) (s : State) : Host.Outcome State Fault Refusal :=
  finish .next (s.writeResultThenFlag x (s.reg y - s.reg x) (notBorrowFlag (s.reg y) (s.reg x)))

/-- SLL (R180): the source is `V[x]`; `V[y]` is not read. -/
def execSll (x _y : RegIx) (s : State) : Host.Outcome State Fault Refusal :=
  finish .next (s.writeResultThenFlag x (s.reg x <<< 1) (shiftedOutHigh (s.reg x)))

end Sys2Proof.Machine
end

