-- ==== Sys2Proof/Machine/Control.lean ====
section
/-!
DEFINITION. The Control family: timers, key wait, index register, font, BCD, dump and restore
(46_control_family.md).
-/

namespace Sys2Proof.Machine

/-- LD_VX_DT (R221). -/
def execLdVxDt (x : RegIx) (s : State) : Host.Outcome State Fault Refusal :=
  finish .next (s.setReg x s.dt)

/-- LD_VX_K (R222): its own cycle writes nothing but the outcome; the completion is
40_engine.md R117 (`completeWait`, Machine/Engine.lean). -/
def execLdVxK (x : RegIx) (s : State) : Host.Outcome State Fault Refusal := finish (.wait x) s

/-- LD_DT_VX (R223). -/
def execLdDtVx (x : RegIx) (s : State) : Host.Outcome State Fault Refusal :=
  finish .next (s.setDT (s.reg x))

/-- LD_ST_VX (R224). -/
def execLdStVx (x : RegIx) (s : State) : Host.Outcome State Fault Refusal :=
  finish .next (s.setST (s.reg x))

/-- ADD_I_VX (R225): no flag. -/
def execAddIVx (x : RegIx) (s : State) : Host.Outcome State Fault Refusal :=
  finish .next (s.setI (s.indexPlusReg x))

/-- LD_F_VX (R226). -/
def execLdFVx (x : RegIx) (s : State) : Host.Outcome State Fault Refusal :=
  finish .next (s.setI (glyphAddr (s.lowNibble x)))

/-- Store three digits at `I`, `I + 1`, `I + 2`, in that order (R227). -/
def State.storeDigits (s : State) (d : Byte × Byte × Byte) : State :=
  ((s.memWrite (s.indexed 0) d.1).memWrite (s.indexed 1) d.2.1).memWrite (s.indexed 2) d.2.2

/-- LD_B_VX (R227). -/
def execLdBVx (x : RegIx) (s : State) : Host.Outcome State Fault Refusal :=
  finish .next (s.storeDigits (bcdDigits (s.reg x)))

/-- Store the first `n` registers, V0 first, at `I`, `I + 1`, … (R228). -/
def State.dumpRegs (s : State) : Nat → State
  | 0 => s
  | k + 1 => (s.dumpRegs k).memWrite (s.indexed k) (s.reg (BitVec.ofNat 4 k))

/-- LD_MEM_VX (R228): the range is inclusive, `x + 1` registers; `I` is unchanged. -/
def execLdMemVx (x : RegIx) (s : State) : Host.Outcome State Fault Refusal :=
  finish .next (s.dumpRegs (x.toNat + 1))

/-- Load the first `n` registers, V0 first, from `I`, `I + 1`, … (R229). -/
def State.restoreRegs (s : State) : Nat → State
  | 0 => s
  | k + 1 => (s.restoreRegs k).setReg (BitVec.ofNat 4 k) (s.memRead (s.indexed k))

/-- LD_VX_MEM (R229): the range is inclusive, `x + 1` registers; `I` is unchanged. -/
def execLdVxMem (x : RegIx) (s : State) : Host.Outcome State Fault Refusal :=
  finish .next (s.restoreRegs (x.toNat + 1))

end Sys2Proof.Machine
end

