-- ==== Sys2Proof/Machine/KeyFamily.lean ====
section
/-!
DEFINITION. The Key family: SKP, SKNP (45_key_family.md). The key tested is `V[x] & 0x0F` (R213).
-/

namespace Sys2Proof.Machine

/-- SKP (R211). -/
def execSkp (x : RegIx) (s : State) : Host.Outcome State Fault Refusal :=
  finish (skipIf (s.keyDown (s.lowNibble x))) s

/-- SKNP (R212). -/
def execSknp (x : RegIx) (s : State) : Host.Outcome State Fault Refusal :=
  finish (skipIf (!s.keyDown (s.lowNibble x))) s

end Sys2Proof.Machine
end

