-- ==== Sys2Proof/Machine/MachineFamily.lean ====
section
/-!
DEFINITION. The Machine family: SYS, CLS, RET (41_machine_family.md).
-/

namespace Sys2Proof.Machine

/-- SYS (R131): `Fatal(UnsupportedSys)`, or a no-op where `SYS_AS_NOP` is set. `nnn` is ignored. -/
def execSys (_nnn : Addr) (s : State) : Host.Outcome State Fault Refusal :=
  if s.cfg.sysAsNop then finish .next s else finish (.fatal .unsupportedSys) s

/-- CLS (R132): every framebuffer byte becomes 0x00. -/
def execCls (s : State) : Host.Outcome State Fault Refusal :=
  finish .next (s.setFB (Vector.replicate 256 0x00))

/-- RET (R133): pop the return address and jump to it; StackUnderflow on an empty stack. -/
def execRet (s : State) : Host.Outcome State Fault Refusal :=
  match s.stack with
  | [] => finish (.fatal .stackUnderflow) s
  | a :: rest => finish (.jump a) (s.setStack rest)

end Sys2Proof.Machine
end

