-- ==== Sys2Proof/Machine/SinglePurpose.lean ====
section
/-!
DEFINITION. The single-purpose codes but DRW (42_single_purpose.md).
-/

namespace Sys2Proof.Machine

/-- A jump with the evenness check of R141, R142 and R150: MisalignedPc before any write. -/
def jumpChecked (t : Addr) (s : State) : Host.Outcome State Fault Refusal :=
  if s.misaligned t then finish (.fatal .misalignedPc) s else finish (.jump t) s

/-- JP (R141). -/
def execJp (nnn : Addr) (s : State) : Host.Outcome State Fault Refusal := jumpChecked nnn s

/-- CALL (R142): MisalignedPc is checked before StackOverflow (60_exceptions.md R256). -/
def execCall (nnn : Addr) (s : State) : Host.Outcome State Fault Refusal :=
  if s.misaligned nnn then finish (.fatal .misalignedPc) s
  else if s.stackFull then finish (.fatal .stackOverflow) s
  else finish (.jump nnn) (s.push s.returnAddr)

/-- JP_V0 (R150): the offset register is V0. -/
def execJpV0 (nnn : Addr) (s : State) : Host.Outcome State Fault Refusal :=
  jumpChecked (s.offsetTarget nnn) s

/-- SE_IMM (R143). -/
def execSeImm (x : RegIx) (kk : Byte) (s : State) : Host.Outcome State Fault Refusal :=
  finish (skipIf (s.reg x == kk)) s

/-- SNE_IMM (R144). -/
def execSneImm (x : RegIx) (kk : Byte) (s : State) : Host.Outcome State Fault Refusal :=
  finish (skipIf (s.reg x != kk)) s

/-- SE_REG (R145); the low nibble is ignored. -/
def execSeReg (x y : RegIx) (_n : Nibble) (s : State) : Host.Outcome State Fault Refusal :=
  finish (skipIf (s.reg x == s.reg y)) s

/-- SNE_REG (R148); the low nibble is ignored. -/
def execSneReg (x y : RegIx) (_n : Nibble) (s : State) : Host.Outcome State Fault Refusal :=
  finish (skipIf (s.reg x != s.reg y)) s

/-- LD_IMM (R146). -/
def execLdImm (x : RegIx) (kk : Byte) (s : State) : Host.Outcome State Fault Refusal :=
  finish .next (s.setReg x kk)

/-- ADD_IMM (R147): no carry. -/
def execAddImm (x : RegIx) (kk : Byte) (s : State) : Host.Outcome State Fault Refusal :=
  finish .next (s.setReg x (s.reg x + kk))

/-- LD_I (R149). -/
def execLdI (nnn : Addr) (s : State) : Host.Outcome State Fault Refusal :=
  finish .next (s.setI nnn)

/-- RND (R151): exactly one draw is consumed. -/
def execRnd (x : RegIx) (kk : Byte) (s : State) : Host.Outcome State Fault Refusal :=
  finish .next ((s.setReg x (maskedDraw s.nextDraw kk)).consumeDraw)

end Sys2Proof.Machine
end

