-- ==== Sys2Proof/Machine/Sprite.lean ====
section
/-!
DEFINITION. The sprite renderer DRW in the byte form of 44_sprite_renderer.md R190. The pixel form of
R196 is an obligation about it.
-/

namespace Sys2Proof.Machine

/-- XOR a mask into one framebuffer byte and note a collision with the bits it held before (R194). -/
def xorByte (b : Nat) (mask : Byte) (p : FrameBuffer × Bool) : FrameBuffer × Bool :=
  (fbWrite p.1 b (fbRead p.1 b ^^^ mask), p.2 || (fbRead p.1 b &&& mask) != 0)

/-- The part of a sprite byte in its first framebuffer byte, `s >> off` (R193). -/
def spriteHigh (s : Byte) (off : Nat) : Byte := s >>> off

/-- The part of a sprite byte in the next framebuffer byte, `trunc_8(s << (8 - off))` (R193). -/
def spriteLow (s : Byte) (off : Nat) : Byte := s <<< (8 - off)

/-- One sprite byte `s` at column `x0` of screen row `yr`. A row at 32 or below the screen is clipped
(R192); the straddling part is dropped at the right edge (R193). -/
def drawRow (s : Byte) (x0 yr : Nat) (p : FrameBuffer × Bool) : FrameBuffer × Bool :=
  if yr ≥ 32 then p
  else
    let off := x0 % 8
    let col := x0 / 8
    let q := xorByte (8 * yr + col) (spriteHigh s off) p
    if off > 0 ∧ col < 7 then xorByte (8 * yr + col + 1) (spriteLow s off) q else q

/-- The first `n` rows of the sprite at `I`, drawn top row first, with origin `(x0, y0)` (R190). -/
def State.drawRows (s : State) (x0 y0 : Nat) : Nat → FrameBuffer × Bool
  | 0 => (s.fb, false)
  | r + 1 => drawRow (s.memRead (s.indexed r)) x0 (y0 + r) (s.drawRows x0 y0 r)

/-- DRW (R190): VF is the last write, after every framebuffer write. -/
def execDrw (x y : RegIx) (n : Nibble) (s : State) : Host.Outcome State Fault Refusal :=
  let drawn := s.drawRows (s.originX x) (s.originY y) n.toNat
  finish .next ((s.setFB drawn.1).setReg VF (collisionFlag drawn.2))

end Sys2Proof.Machine
end

