-- ==== Sys2Proof/Machine/Ports.lean ====
section
/-!
DEFINITION. The external ports (10_state.md R50 to R57): `tick`, `set_key`, `load` and the read ports.
The `cycle` port is in Machine/Engine.lean.
-/

namespace Sys2Proof.Machine

/-- One count of a timer, saturating at 0 (60_exceptions.md R260). -/
def countDown (t : Byte) : Byte := if t = 0 then 0 else t - 1

/-- `tick()`: both timers count down once, in every run state (60_exceptions.md R260, R263). -/
def State.tick (s : State) : State := { s with dt := countDown s.dt, st := countDown s.st }

/-- `MAX_IMAGE = 3584` (00_scope.md R6). -/
def maxImage : Nat := 4096 - 0x200

/-- Whether `load` accepts an image: `1 <= len <= MAX_IMAGE` (70_reset_and_hazards.md R283). -/
def imageAccepted (image : List Byte) : Bool :=
  decide (1 ≤ image.length ∧ image.length ≤ maxImage)

/-- What `load` reports to the host (70_reset_and_hazards.md R283). -/
inductive LoadReply where
  | accepted
  | rejected
deriving DecidableEq, Repr

/-- The reply of `load(image)`, a value on a port and no state (log entry 11). -/
def loadReply (image : List Byte) : LoadReply :=
  if imageAccepted image then .accepted else .rejected

/-- The memory after an accepted load: zeroes, the font, then the image at 0x200
(70_reset_and_hazards.md R280). The first two are what unlisted addresses read as. -/
def loadedMemory (cfg : Config) (image : List Byte) : Memory := Memory.place cfg 0x200 image []

/-- `load(image)`: a full reset with the image in memory, or no change at all where the image is
rejected (70_reset_and_hazards.md R280, R283). The parameters are fixed for the machine, the RAND oracle
is outside the core (10_state.md R38) and the host's later events are the host's: none is reset
(log entry 11). -/
def State.load (s : State) (image : List Byte) : State :=
  if imageAccepted image then
    { State.reset with
      mem := loadedMemory s.cfg image, cfg := s.cfg, events := s.events, draws := s.draws }
  else s

/-! ### Read ports (10_state.md R55); none changes the state -/

/-- `fb_grid(x, y)`. -/
def State.fbGrid (s : State) (x : Fin 64) (y : Fin 32) : Bool := pixel s.fb x.val y.val

/-- `dt_out`. -/
def State.dtOut (s : State) : Byte := s.dt

/-- `st_out`. -/
def State.stOut (s : State) : Byte := s.st

/-- `status = (run, fault)`. -/
def State.status (s : State) : RunState × Option FaultKind := (s.run, s.fault)

/-- `I` as its 16-bit storage shows it: bits 15:12 read 0 (10_state.md R24, R26). -/
def State.iStorage (s : State) : Word := s.i.setWidth 16

/-- `state_view`: a read-only snapshot of every field. -/
def State.view (s : State) : State := s

end Sys2Proof.Machine
end

