-- ==== Sys2Proof/Machine/Engine.lean ====
section
/-!
DEFINITION. One engine cycle (40_engine.md R110): fetch, decode, execute, and the key wait.
-/

namespace Sys2Proof.Machine

/-- `complete_wait()` (40_engine.md R117): the lowest pressed key goes into the awaited register; with
no key pressed nothing changes. -/
def State.completeWait (s : State) : State :=
  match s.lowestKey with
  | none => s
  | some k => ((s.setReg s.awaitReg (k.setWidth 8)).setPc (s.pc + 2)).resume

/-- Execute what the decoder yields (40_engine.md R113): an unrecognized word raises
UnrecognizedSubOpcode (30_encoding.md R88). -/
def execDecoded (d : Decoded) (s : State) : Host.Outcome State Fault Refusal :=
  match d with
  | .instr i => exec i s
  | .unrecognized _ _ => finish (.fatal .unrecognizedSubOpcode) s

/-- The word the next instruction is fetched as (40_engine.md R111). -/
def State.fetched (s : State) : Word := s.fetch16 s.pc

/-- `cycle()` (40_engine.md R110). -/
def cycle (s : State) : Host.Outcome State Fault Refusal :=
  match s.run with
  | .faulted => .next s
  | .awaitingKey => .next s.completeWait
  | .running => execDecoded (decode s.fetched) s

/-- One event of the host as one atomic transition (20_memory.md R70). -/
def applyEvent (e : Event) (s : State) : Host.Outcome State Fault Refusal :=
  match e with
  | .cycle => cycle s
  | .tick => .next s.tick
  | .setKey k pressed => .next (s.setKeyDown k pressed)
  | .load image => .next (s.load image)

/-- The event a step takes: the first one listed, or a `cycle` where none is listed (log entry 2). -/
def State.nextEvent (s : State) : Event := s.events.head?.getD .cycle

/-- The event is taken off the list before it acts. -/
def State.popEvent (s : State) : State := { s with events := s.events.tail }

/-- A word stored where the next step fetches, in a state that fetches next: Running, no fault
(10_state.md R37), no other event before the cycle (log entry 13). -/
def State.withWordAtPc (s : State) (w : Word) : State :=
  { (s.memWrite s.pc (highByte w)).memWrite (s.pc + 1) (lowByte w) with
    run := .running, fault := none, events := [] }

end Sys2Proof.Machine
end

