-- ==== Sys2Proof/Machine/Step.lean ====
section
/-!
DEFINITION. One step of the machine: one event of the host (10_state.md R50, R53; log entry 2), and where
the host places a word to be run next.
-/

namespace Sys2Proof.Machine

/-- One event: the next one listed, or a `cycle` where none is listed. -/
def step (s : State) : Host.Outcome State Fault Refusal := applyEvent s.nextEvent s.popEvent

/-- `s` with the table word stored at `pc`, so that the very next step fetches and runs it. -/
def State.withFetchWord (s : State) (nbits w : Nat) : State := s.withWordAtPc (tableWord nbits w)

end Sys2Proof.Machine
end

