-- ==== Sys2Proof/Safety.lean ====
section
/-!
DEFINITION. What claims are made in terms of: the end conditions of a run (40_engine.md R122), the parts
of the state that a frame names, and the invariants.
-/

namespace Sys2Proof.Machine

/-! ### End conditions (40_engine.md R122) -/

/-- A bad end: the engine is Faulted. -/
abbrev State.Faulted (s : State) : Prop := s.run = .faulted

/-- A good end: Running at a JP to its own address. -/
abbrev State.Parked (s : State) : Prop :=
  s.run = .running ∧ s.fetched = (0x1000#16 ||| s.pc.setWidth 16)

/-- A wait: AwaitingKey with no key pressed. -/
abbrev State.Waiting (s : State) : Prop := s.run = .awaitingKey ∧ ∀ k : KeyIx, s.keyDown k = false

/-! ### Frames -/

/-- The parts of the state, each field of `State` under one name. -/
inductive StatePart where
  | mem
  | regs
  | i
  | pc
  | stack
  | dt
  | st
  | key
  | fb
  | run
  | awaitReg
  | fault
  | cfg
  | events
  | draws
deriving DecidableEq, Repr

/-- The part reads the same in both states: memory byte by byte, the registers one by one. -/
def StatePart.Same (s t : State) : StatePart → Prop
  | .mem => ∀ a : Addr, t.memRead a = s.memRead a
  | .regs => ∀ r : RegIx, t.reg r = s.reg r
  | .i => t.i = s.i
  | .pc => t.pc = s.pc
  | .stack => t.stack = s.stack
  | .dt => t.dt = s.dt
  | .st => t.st = s.st
  | .key => ∀ k : KeyIx, t.keyDown k = s.keyDown k
  | .fb => t.fb = s.fb
  | .run => t.run = s.run
  | .awaitReg => t.awaitReg = s.awaitReg
  | .fault => t.fault = s.fault
  | .cfg => t.cfg = s.cfg
  | .events => t.events = s.events
  | .draws => t.draws = s.draws

/-- Every part of the state but the ones listed is unchanged from `s` to `t`. -/
def ChangesOnly (ps : List StatePart) (s t : State) : Prop := ∀ p : StatePart, p ∉ ps → p.Same s t

/-! ### What an instruction may write -/

/-- The registers an instruction's own cycle may write: the list of 10_state.md R20 and R21 (FX0A's
register is written when its wait completes, not in its own cycle). -/
def mayWriteReg : Instr → RegIx → Bool
  | .ldImm x _, r | .addImm x _, r | .rnd x _, r | .ldVxDt x, r => r == x
  | .mov x _, r | .orReg x _, r | .andReg x _, r | .xorReg x _, r => r == x
  | .addReg x _, r | .subReg x _, r | .srl x _, r | .subnReg x _, r | .sll x _, r => r == x || r == VF
  | .drw _ _ _, r => r == VF
  | .ldVxMem x, r => decide (r.toNat ≤ x.toNat)
  | .sys _, _ | .cls, _ | .ret, _ | .jp _, _ | .call _, _ | .jpV0 _, _ => false
  | .seImm _ _, _ | .sneImm _ _, _ | .seReg _ _ _, _ | .sneReg _ _ _, _ | .skp _, _ => false
  | .sknp _, _ | .ldI _, _ | .ldVxK _, _ | .ldDtVx _, _ | .ldStVx _, _ | .addIVx _, _ => false
  | .ldFVx _, _ | .ldBVx _, _ | .ldMemVx _, _ => false

/-- DRW inverts the pixel `(px, py)`: some bit `7 - i` of sprite row `r` is 1 and lands there
(44_sprite_renderer.md R196; the origin is that of R191). Only pixels with `px < 64` and `py < 32` exist. -/
def State.SpriteInverts (s : State) (x y : RegIx) (n : Nibble) (px py : Nat) : Prop :=
  ∃ r i, r < n.toNat ∧ i < 8 ∧ px = (s.reg x).toNat % 64 + i ∧ py = (s.reg y).toNat % 32 + r ∧
    (s.memRead (s.i + BitVec.ofNat 12 r)).getLsbD (7 - i) = true

/-! ### Invariants -/

/-- Memory is in its canonical form (log entry 7). -/
def State.MemCanonical (s : State) : Prop := Memory.wf s.cfg s.mem

/-- With `ENFORCE_EVEN_PC`, `pc` is even, and so is every return address (10_state.md R23,
41_machine_family.md R133). -/
def State.PcEven (s : State) : Prop :=
  s.cfg.enforceEvenPc = true → s.pc.toNat % 2 = 0 ∧ ∀ a ∈ s.stack, a.toNat % 2 = 0

/-- `fault` is none while `run` is not Faulted, and holds a kind while it is (10_state.md R37). -/
def State.FaultRecorded (s : State) : Prop := s.fault = none ↔ s.run ≠ .faulted

/-- The stack's depth is 0 to `STACK_DEPTH` (10_state.md R26, R29). -/
def State.StackBounded (s : State) : Prop := ∀ d, s.cfg.stackDepth = some d → s.stack.length ≤ d

/-- The four together. -/
structure State.Inv (s : State) : Prop where
  memCanonical : s.MemCanonical
  pcEven : s.PcEven
  faultRecorded : s.FaultRecorded
  stackBounded : s.StackBounded

/-- The events as one run: each acts on the state the one before it left (20_memory.md R70). -/
def applyEvents : List Event → State → Host.Outcome State Fault Refusal
  | [], s => .next s
  | e :: es, s =>
    match applyEvent e s with
    | .next t => applyEvents es t
    | .fault r => .fault r
    | .refused r => .refused r

end Sys2Proof.Machine
end

