-- ==== Sys2Proof/Certificates/Slice0/Obligations.lean ====
section
/-!
DEFINITION. The statements about the model, for the provers. `decode (pack…)` clauses give the instruction's
encoding in its format (30_encoding.md R81); `ChangesOnly ps s t` says that every part of the state but
those listed reads the same in `t` as in `s`.
-/

open Sys2Proof Sys2Proof.Machine

/-- For every well-formed instruction, at every value of its operands, decode of encode is that
instruction. No bit of an encoding is dropped. [derived: 30_encoding.md sections 1 to 3] -/
def Obligations.EncodeThenDecodeIsTheInstruction : Prop :=
  ∀ i : Instr, i.wellFormed = true → decode (encode i) = .instr i

/-- Whenever decode of a word w is an instruction i, encode i is w again and i is well formed: each
word has one meaning. [derived: 30_encoding.md sections 1 to 3] -/
def Obligations.DecodeThenEncodeIsTheWord : Prop :=
  ∀ (w : Word) (i : Instr), decode w = .instr i → encode i = w ∧ i.wellFormed = true

/-- If decode of w is i then w & mask = match for i's row. If w matches the row of an instruction j
other than SYS, decode of w is an instruction of j's row. If w[15:12] = 0 and w is neither 00E0
nor 00EE, decode of w is SYS w[11:0]: SYS has the lowest priority. That the whole word selects CLS
and RET is the spec's decision D5. [derived: 30_encoding.md sections 2 and 3; 92_eei_decisions.md
D5] -/
def Obligations.DecodeAgreesWithTheOpcodeTable : Prop :=
  (∀ (w : Word) (i : Instr), decode w = .instr i → w &&& (tableRow i).2 = (tableRow i).1) ∧
  (∀ (w : Word) (j : Instr), (∀ nnn, j ≠ .sys nnn) → w &&& (tableRow j).2 = (tableRow j).1 →
    ∃ i, decode w = .instr i ∧ tableRow i = tableRow j) ∧
  (∀ w : Word, w &&& 0xF000 = 0x0000 → w ≠ 0x00E0 → w ≠ 0x00EE →
    decode w = .instr (.sys (fieldNNN w)))

/-- decode w is unrecognized f w' iff w' = w and either f is ALU, w[15:12] = 8 and w[3:0] is 8 to D or
F, or f is Key, w[15:12] = E and w[7:0] is neither 9E nor A1, or f is Control, w[15:12] = F and
w[7:0] is none of the nine Control values. [derived: 30_encoding.md section 4] -/
def Obligations.UnrecognizedWordsAreTheIllegalOnes : Prop :=
  ∀ (w w' : Word) (f : Family), decode w = .unrecognized f w' ↔ w' = w ∧
    ((f = .alu ∧ w.toNat / 4096 = 0x8 ∧ w.toNat % 16 ∈ [0x8, 0x9, 0xA, 0xB, 0xC, 0xD, 0xF]) ∨
     (f = .key ∧ w.toNat / 4096 = 0xE ∧ w.toNat % 256 ∉ [0x9E, 0xA1]) ∨
     (f = .control ∧ w.toNat / 4096 = 0xF ∧
       w.toNat % 256 ∉ [0x07, 0x0A, 0x15, 0x18, 0x1E, 0x29, 0x33, 0x55, 0x65]))

/-- Words written out from the spec's encodings, at least one of each family and one illegal word,
decode to the instruction they stand for. [derived: 30_encoding.md section 3; 95_test_vectors.md
section 2] -/
def Obligations.SampleWordsDecodeAsWritten : Prop :=
  decode 0x0123 = .instr (.sys 0x123) ∧ decode 0x00E0 = .instr .cls ∧ decode 0x00EE = .instr .ret ∧
  decode 0x1234 = .instr (.jp 0x234) ∧ decode 0x3310 = .instr (.seImm 0x3 0x10) ∧
  decode 0x5121 = .instr (.seReg 0x1 0x2 0x1) ∧ decode 0x80F5 = .instr (.subReg 0x0 0xF) ∧
  decode 0xBFFF = .instr (.jpV0 0xFFF) ∧ decode 0xD015 = .instr (.drw 0x0 0x1 0x5) ∧
  decode 0xE79E = .instr (.skp 0x7) ∧ decode 0xF255 = .instr (.ldMemVx 0x2) ∧
  decode 0x8008 = .unrecognized .alu 0x8008

/-- For every state and 12-bit address a, Fetch16(a) is 256 times the byte at a plus the byte at (a +
1) mod 4096. So the reference big-endian choice holds. [stated: R63] -/
def Obligations.FetchJoinsTwoBytesHighFirst : Prop :=
  ∀ (s : State) (a : Addr), (s.fetch16 a).toNat =
    (s.memRead a).toNat * 256 + (s.memRead (BitVec.ofNat 12 ((a.toNat + 1) % 4096))).toNat

/-- In a Running state whose word at pc decodes to i, cycle is exec i. So is a step where no host
event is listed (log entry 2: the model's convention), and a step whose next event is a cycle,
which runs exec i on the state with that event taken off the list. [derived: 40_engine.md section
1] -/
def Obligations.StepRunsTheDecodedInstruction : Prop :=
  ∀ (s : State) (i : Instr), s.run = .running → decode (s.fetch16 s.pc) = .instr i →
    cycle s = exec i s ∧ (s.events = [] → step s = exec i s) ∧
    ∀ es, step { s with events := .cycle :: es } = exec i { s with events := es }

/-- In a Running state that fetches a word 8xys with s in 8 to D or F, or Exss with ss neither 9E nor
A1, or Fxss with ss none of the nine Control values, the cycle answers a next state that is
Faulted with fault UnrecognizedSubOpcode; no other part of the state changes, pc included.
[stated: R181; R214; R230] -/
def Obligations.IllegalWordFaultsAndChangesNothingElse : Prop :=
  ∀ s : State, s.run = .running →
    (((s.fetch16 s.pc).toNat / 4096 = 0x8 ∧
        (s.fetch16 s.pc).toNat % 16 ∈ [0x8, 0x9, 0xA, 0xB, 0xC, 0xD, 0xF]) ∨
      ((s.fetch16 s.pc).toNat / 4096 = 0xE ∧ (s.fetch16 s.pc).toNat % 256 ∉ [0x9E, 0xA1]) ∨
      ((s.fetch16 s.pc).toNat / 4096 = 0xF ∧ (s.fetch16 s.pc).toNat % 256 ∉
        [0x07, 0x0A, 0x15, 0x18, 0x1E, 0x29, 0x33, 0x55, 0x65])) →
    ∃ t, cycle s = .next t ∧ t.run = .faulted ∧ t.fault = some .unrecognizedSubOpcode ∧
      ChangesOnly [.run, .fault] s t

/-- If an instruction executed in a Running state ends Faulted, the new state is the old one but for
run and fault. The instruction is RET on an empty stack (StackUnderflow), SYS with SYS_AS_NOP
false (UnsupportedSys), JP, CALL or JP_V0 to an odd target with ENFORCE_EVEN_PC (MisalignedPc), or
CALL to a permitted target on a full stack of finite STACK_DEPTH (StackOverflow). That a fatal
stop is precise and sticky is the spec's decision D17; the listed causes are its decision D18.
[derived: 60_exceptions.md section 1; 92_eei_decisions.md D17; 92_eei_decisions.md D18] -/
def Obligations.FatalErrorsArePreciseAndTheirCausesAreTheListedOnes : Prop :=
  ∀ (i : Instr) (s t : State), s.run = .running → exec i s = .next t → t.run = .faulted →
    t = { s with run := .faulted, fault := t.fault } ∧
    ((i = .ret ∧ s.stack = [] ∧ t.fault = some .stackUnderflow) ∨
     (∃ nnn, i = .sys nnn ∧ s.cfg.sysAsNop = false ∧ t.fault = some .unsupportedSys) ∨
     (∃ nnn, (i = .jp nnn ∨ i = .call nnn) ∧ s.cfg.enforceEvenPc = true ∧ nnn.toNat % 2 = 1 ∧
       t.fault = some .misalignedPc) ∨
     (∃ nnn, i = .jpV0 nnn ∧ s.cfg.enforceEvenPc = true ∧
       (nnn.toNat + (s.reg 0x0#4).toNat) % 4096 % 2 = 1 ∧ t.fault = some .misalignedPc) ∨
     (∃ nnn d, i = .call nnn ∧ s.cfg.stackDepth = some d ∧ s.stack.length = d ∧
       (s.cfg.enforceEvenPc = true → nnn.toNat % 2 = 0) ∧ t.fault = some .stackOverflow))

/-- From a Faulted state, any list of cycles, ticks, key changes and rejected loads leads to a Faulted
state with the same fault that differs from the first at most in DT, ST and the keys. A load is
rejected if its image has no byte or more than 3584. That Faulted is sticky is the spec's decision
D17, the length bounds and that a rejected load changes nothing its decision D24. [derived:
40_engine.md section 3; 60_exceptions.md sections 2 and 3; 70_reset_and_hazards.md section 2;
92_eei_decisions.md D17; 92_eei_decisions.md D24] -/
def Obligations.OnlyAnAcceptedLoadLeavesFaulted : Prop :=
  ∀ (es : List Event) (s : State), s.run = .faulted →
    (∀ image, .load image ∈ es → ¬(1 ≤ image.length ∧ image.length ≤ 3584)) →
    ∃ t, applyEvents es s = .next t ∧ ChangesOnly [.dt, .st, .key] s t

/-- In AwaitingKey, if key k is pressed and no lower one is, the cycle answers a next state with
V[awaitReg] = k, every other register unchanged, pc advanced by 2 modulo 4096 and run = Running,
nothing else changed. If no key is pressed the cycle changes no state. The test is on the level of
the keys at the cycle. (The wrap of pc at 4096 is the spec's decision D2.) [stated: R117] -/
def Obligations.KeyWaitTakesTheLowestPressedKey : Prop :=
  ∀ s : State, s.run = .awaitingKey →
    (∀ k : KeyIx, s.keyDown k = true → (∀ j : KeyIx, j.toNat < k.toNat → s.keyDown j = false) →
      ∃ t, cycle s = .next t ∧ (t.reg s.awaitReg).toNat = k.toNat ∧
        (∀ r, r ≠ s.awaitReg → t.reg r = s.reg r) ∧ t.pc.toNat = (s.pc.toNat + 2) % 4096 ∧
        t.run = .running ∧ ChangesOnly [.regs, .pc, .run] s t) ∧
    ((∀ k : KeyIx, s.keyDown k = false) → cycle s = .next s)

/-- In a Running state whose word at pc is JP to pc itself, and in which pc is even or unchecked (the
invariant PcEven, stated on its own), any number of cycles leaves the state unchanged. The end
conditions are the spec's decision D29. [derived: 40_engine.md section 4; 92_eei_decisions.md D29] -/
def Obligations.ParkedStateIsAFixedPointOfCycles : Prop :=
  ∀ (s : State) (n : Nat), s.Parked → s.PcEven →
    applyEvents (List.replicate n .cycle) s = .next s

/-- Running the core for as many steps as events are listed is the events applied in order, each to
the state the one before left. So the machine's runs cover every interleaving of load, set_key,
cycle and tick (the spec's decision D21; that the host's events stand in State is the model's, log
entry 2). [derived: 20_memory.md section 7; 60_exceptions.md section 2; 92_eei_decisions.md D21] -/
def Obligations.EveryListOfEventsIsARunOfTheMachine : Prop :=
  ∀ (es : List Event) (s : State),
    Host.Core.run Sys2Proof.core es.length { s with events := es } =
      applyEvents es { s with events := [] }

/-- A step whose next event is a tick answers a next state with DT and ST one lower, or 0 where they
were 0, and every other part of the state unchanged, whatever the run state. Only the event itself
is taken off the model's list. [stated: R260] -/
def Obligations.TickCountsBothTimersDownToZero : Prop :=
  ∀ (s : State) (es : List Event), s.events = .tick :: es →
    ∃ t, step s = .next t ∧ (s.dt.toNat > 0 → t.dt.toNat = s.dt.toNat - 1) ∧
      (s.dt.toNat = 0 → t.dt.toNat = 0) ∧ (s.st.toNat > 0 → t.st.toNat = s.st.toNat - 1) ∧
      (s.st.toNat = 0 → t.st.toNat = 0) ∧ t.events = es ∧ ChangesOnly [.dt, .st, .events] s t

/-- A step whose next event is set_key(k, pressed) answers a next state in which key k has that value,
every other key is as before and nothing else changed, in any run state. Only the event itself is
taken off the model's list. [stated: R52] -/
def Obligations.SetKeyChangesThatKeyOnly : Prop :=
  ∀ (s : State) (es : List Event) (k : KeyIx) (p : Bool), s.events = .setKey k p :: es →
    ∃ t, step s = .next t ∧ t.keyDown k = p ∧ (∀ j, j ≠ k → t.keyDown j = s.keyDown j) ∧
      t.events = es ∧ ChangesOnly [.key, .events] s t

/-- A step whose next event is a load of 1 to 3584 bytes answers, from any run state, a state with the
font at 0, the image at 0x200 and zero elsewhere, registers, I, timers, stack, screen and keys
cleared, pc = 0x200, Running, no fault; the reply is Accepted. The length bounds are the spec's
decision D24, the zero values its decision D1. Parameters, the host's later events and the RAND
count are kept (log entry 11). [derived: 70_reset_and_hazards.md sections 1 and 2;
92_eei_decisions.md D1; 92_eei_decisions.md D24] -/
def Obligations.AcceptedLoadResetsAndPlacesTheImage : Prop :=
  ∀ (s : State) (es : List Event) (image : List Byte), s.events = .load image :: es →
    1 ≤ image.length → image.length ≤ 3584 →
    loadReply image = .accepted ∧
    ∃ t, step s = .next t ∧
      (∀ a : Addr, t.memRead a =
        if h : a.toNat < 80 then s.cfg.font[a.toNat]
        else if h : 0x200 ≤ a.toNat ∧ a.toNat < 0x200 + image.length then image[a.toNat - 0x200]
        else 0x00) ∧
      (∀ r, t.reg r = 0x00) ∧ t.i = 0x000 ∧ t.pc = 0x200 ∧ t.stack = [] ∧ t.dt = 0 ∧ t.st = 0 ∧
      (∀ k, t.keyDown k = false) ∧ (∀ b, b < 256 → fbRead t.fb b = 0x00) ∧ t.run = .running ∧
      t.awaitReg = 0 ∧ t.fault = none ∧ t.cfg = s.cfg ∧ t.events = es ∧ t.draws = s.draws

/-- A step whose next event is a load of an empty image or one longer than 3584 bytes answers the same
state, less that event; the reply is Rejected. The bounds are the spec's decision D24. [derived:
70_reset_and_hazards.md section 2; 92_eei_decisions.md D24] -/
def Obligations.RejectedLoadChangesNothing : Prop :=
  ∀ (s : State) (es : List Event) (image : List Byte), s.events = .load image :: es →
    image.length = 0 ∨ image.length > 3584 →
    loadReply image = .rejected ∧ step s = .next { s with events := es }

/-- In the reset state memory reads the conventional font at 0x000 to 0x04F and zero above, V0 to VF,
I, DT, ST, the screen and the keys are zero, the stack is empty, pc = 0x200, run = Running,
awaitReg = 0 and fault is none. The zero values other than memory's are the spec's decision D1,
the font bytes its decision D19; that no image is loaded is the model's (log entry 4). [derived:
10_state.md section 11; 92_eei_decisions.md D1; 92_eei_decisions.md D19] -/
def Obligations.ResetStateHoldsTheListedValues : Prop :=
  (∀ a : Addr, State.reset.memRead a = if h : a.toNat < 80 then defaultFont[a.toNat] else 0x00) ∧
  (∀ r, State.reset.reg r = 0x00) ∧ State.reset.i = 0x000 ∧ State.reset.pc = 0x200 ∧
  State.reset.stack = [] ∧ State.reset.dt = 0 ∧ State.reset.st = 0 ∧
  (∀ k, State.reset.keyDown k = false) ∧ (∀ b, b < 256 → fbRead State.reset.fb b = 0x00) ∧
  State.reset.run = .running ∧ State.reset.awaitReg = 0 ∧ State.reset.fault = none

/-- 0nnn but 00E0 and 00EE decodes to SYS. With SYS_AS_NOP false it answers a Faulted state with fault
UnsupportedSys and nothing else changed; with SYS_AS_NOP true it advances pc by 2 and changes
nothing else. What SYS does is the spec's decision D6. [derived: 41_machine_family.md;
92_eei_decisions.md D6] -/
def Obligations.SysFaultsByDefaultOrIsANop : Prop :=
  ∀ (nnn : Addr) (s : State),
    (nnn ≠ 0x0E0 → nnn ≠ 0x0EE → decode (packNNN 0x0 nnn) = .instr (.sys nnn)) ∧
    (s.cfg.sysAsNop = false → ∃ t, exec (.sys nnn) s = .next t ∧ t.run = .faulted ∧
      t.fault = some .unsupportedSys ∧ ChangesOnly [.run, .fault] s t) ∧
    (s.cfg.sysAsNop = true → ∃ t, exec (.sys nnn) s = .next t ∧ t.pc = s.pc + 2 ∧
      ChangesOnly [.pc] s t)

/-- 00E0 decodes to CLS. CLS answers a next state with all 256 framebuffer bytes 0, pc advanced by 2
and nothing else changed, VF included; a second CLS gives the same framebuffer. (The wrap of pc at
4096 is the spec's decision D2.) [stated: R132] -/
def Obligations.ClsClearsTheScreenAndIsIdempotent : Prop :=
  decode 0x00E0 = .instr .cls ∧ ∀ s : State,
    ∃ t u, exec .cls s = .next t ∧ (∀ b, b < 256 → fbRead t.fb b = 0x00) ∧ t.pc = s.pc + 2 ∧
      ChangesOnly [.fb, .pc] s t ∧ exec .cls t = .next u ∧ u.fb = t.fb

/-- 00EE decodes to RET. With return address a on top, RET answers a state with pc = a, that entry
popped and nothing else changed, whatever a's evenness. With an empty stack it answers a Faulted
state with fault StackUnderflow and nothing else changed (the form of a fatal stop is the spec's
decision D17). [derived: 41_machine_family.md; 10_state.md section 6; 92_eei_decisions.md D17] -/
def Obligations.RetPopsOrUnderflows : Prop :=
  decode 0x00EE = .instr .ret ∧ ∀ s : State,
    (∀ a rest, s.stack = a :: rest → ∃ t, exec .ret s = .next t ∧ t.pc = a ∧ t.stack = rest ∧
      ChangesOnly [.pc, .stack] s t) ∧
    (s.stack = [] → ∃ t, exec .ret s = .next t ∧ t.run = .faulted ∧
      t.fault = some .stackUnderflow ∧ ChangesOnly [.run, .fault] s t)

/-- 1nnn decodes to JP, Bnnn to JP_V0. With t = nnn for JP and t = (nnn + V0) mod 4096 for JP_V0: if t
is even or ENFORCE_EVEN_PC is false, pc becomes t and nothing else changes; else the state is
Faulted with fault MisalignedPc and nothing else changed. The evenness check, the wrap and V0 are
the spec's decisions D4, D2 and D8. [derived: 42_single_purpose.md section 1; 92_eei_decisions.md
D2; 92_eei_decisions.md D4; 92_eei_decisions.md D8] -/
def Obligations.JumpsGoToTheirTargetOrFaultOnAnOddOne : Prop :=
  ∀ (nnn : Addr) (s : State),
    decode (packNNN 0x1 nnn) = .instr (.jp nnn) ∧ decode (packNNN 0xB nnn) = .instr (.jpV0 nnn) ∧
    ∀ (i : Instr) (target : Nat),
      (i = .jp nnn ∧ target = nnn.toNat) ∨
        (i = .jpV0 nnn ∧ target = (nnn.toNat + (s.reg 0x0#4).toNat) % 4096) →
      (s.cfg.enforceEvenPc = false ∨ target % 2 = 0 → ∃ t, exec i s = .next t ∧
        t.pc.toNat = target ∧ ChangesOnly [.pc] s t) ∧
      (s.cfg.enforceEvenPc = true → target % 2 = 1 → ∃ t, exec i s = .next t ∧ t.run = .faulted ∧
        t.fault = some .misalignedPc ∧ ChangesOnly [.run, .fault] s t)

/-- 2nnn decodes to CALL. With a permitted target and a stack not full, the new top of the stack is
(pc + 2) mod 4096, pc is nnn and nothing else changes. An odd target with ENFORCE_EVEN_PC raises
MisalignedPc, full stack or not; a permitted target with the stack at STACK_DEPTH raises
StackOverflow; each changes nothing else. The checks and their order are the spec's decisions D3,
D4 and D27. [derived: 42_single_purpose.md section 1; 60_exceptions.md section 1;
92_eei_decisions.md D3; 92_eei_decisions.md D4; 92_eei_decisions.md D27] -/
def Obligations.CallPushesTheNextAddressOrFaults : Prop :=
  ∀ (nnn : Addr) (s : State),
    decode (packNNN 0x2 nnn) = .instr (.call nnn) ∧
    (s.cfg.enforceEvenPc = false ∨ nnn.toNat % 2 = 0 → s.cfg.stackDepth ≠ some s.stack.length →
      ∃ t, exec (.call nnn) s = .next t ∧ t.pc = nnn ∧
        t.stack = BitVec.ofNat 12 ((s.pc.toNat + 2) % 4096) :: s.stack ∧
        ChangesOnly [.pc, .stack] s t) ∧
    (s.cfg.enforceEvenPc = true → nnn.toNat % 2 = 1 → ∃ t, exec (.call nnn) s = .next t ∧
      t.run = .faulted ∧ t.fault = some .misalignedPc ∧ ChangesOnly [.run, .fault] s t) ∧
    (s.cfg.enforceEvenPc = false ∨ nnn.toNat % 2 = 0 → s.cfg.stackDepth = some s.stack.length →
      ∃ t, exec (.call nnn) s = .next t ∧ t.run = .faulted ∧ t.fault = some .stackOverflow ∧
        ChangesOnly [.run, .fault] s t)

/-- If CALL does not fault, executing RET in the state it leaves answers the state before the CALL
with pc advanced by 2. [derived: 41_machine_family.md; 42_single_purpose.md section 1;
95_test_vectors.md section 1] -/
def Obligations.CallThenRetComesBack : Prop :=
  ∀ (nnn : Addr) (s : State), (s.cfg.enforceEvenPc = false ∨ nnn.toNat % 2 = 0) →
    s.cfg.stackDepth ≠ some s.stack.length →
    ∃ t, exec (.call nnn) s = .next t ∧ exec .ret t = .next { s with pc := s.pc + 2 }

/-- 3xkk decodes to SE_IMM and 4xkk to SNE_IMM. SE_IMM advances pc by 4 if V[x] = kk and by 2 if not,
SNE_IMM the other way round; nothing else changes, VF included. Any x, F too. (The wrap of pc at
4096 is the spec's decision D2.) [stated: R143; R144] -/
def Obligations.ImmediateSkipsCompareARegisterWithKk : Prop :=
  ∀ (x : RegIx) (kk : Byte) (s : State),
    decode (packXKK 0x3 x kk) = .instr (.seImm x kk) ∧
    decode (packXKK 0x4 x kk) = .instr (.sneImm x kk) ∧
    (∃ t, exec (.seImm x kk) s = .next t ∧
      t.pc = (if s.reg x = kk then s.pc + 4 else s.pc + 2) ∧ ChangesOnly [.pc] s t) ∧
    (∃ t, exec (.sneImm x kk) s = .next t ∧
      t.pc = (if s.reg x ≠ kk then s.pc + 4 else s.pc + 2) ∧ ChangesOnly [.pc] s t)

/-- 5xyn decodes to SE_REG and 9xyn to SNE_REG for every n. SE_REG advances pc by 4 if V[x] = V[y] and
by 2 if not, SNE_REG the other way round, whatever n is; nothing else changes. That n is ignored
is the spec's decision D7. [derived: 42_single_purpose.md section 2; 92_eei_decisions.md D7] -/
def Obligations.RegisterSkipsCompareTwoRegisters : Prop :=
  ∀ (x y : RegIx) (n : Nibble) (s : State),
    decode (packXYN 0x5 x y n) = .instr (.seReg x y n) ∧
    decode (packXYN 0x9 x y n) = .instr (.sneReg x y n) ∧
    (∃ t, exec (.seReg x y n) s = .next t ∧
      t.pc = (if s.reg x = s.reg y then s.pc + 4 else s.pc + 2) ∧ ChangesOnly [.pc] s t) ∧
    (∃ t, exec (.sneReg x y n) s = .next t ∧
      t.pc = (if s.reg x ≠ s.reg y then s.pc + 4 else s.pc + 2) ∧ ChangesOnly [.pc] s t)

/-- Ex9E decodes to SKP and ExA1 to SKNP. With k = V[x] mod 16, SKP advances pc by 4 if key k is
pressed and by 2 if not, SKNP the other way round; nothing else changes. The reduction of V[x] mod
16 is the spec's decision D14. [derived: 45_key_family.md; 92_eei_decisions.md D14] -/
def Obligations.KeySkipsTestTheKeyInTheLowNibble : Prop :=
  ∀ (x : RegIx) (s : State),
    decode (packXKK 0xE x 0x9E) = .instr (.skp x) ∧ decode (packXKK 0xE x 0xA1) = .instr (.sknp x) ∧
    (∃ t, exec (.skp x) s = .next t ∧
      t.pc = (if s.keyDown (BitVec.ofNat 4 ((s.reg x).toNat % 16)) = true then s.pc + 4 else s.pc + 2) ∧ ChangesOnly [.pc] s t) ∧
    (∃ t, exec (.sknp x) s = .next t ∧
      t.pc = (if s.keyDown (BitVec.ofNat 4 ((s.reg x).toNat % 16)) = false then s.pc + 4 else s.pc + 2) ∧ ChangesOnly [.pc] s t)

/-- 6xkk decodes to LD_IMM and 7xkk to ADD_IMM. LD_IMM leaves V[x] = kk, ADD_IMM leaves V[x] = (V[x] +
kk) mod 256; every other register is unchanged (VF too unless x = F), pc advances by 2 and nothing
else changes. That ADD_IMM writes no carry is the spec's decision D11. [derived:
42_single_purpose.md section 3; 92_eei_decisions.md D11] -/
def Obligations.ImmediateLoadAndAddWriteOneRegister : Prop :=
  ∀ (x : RegIx) (kk : Byte) (s : State),
    decode (packXKK 0x6 x kk) = .instr (.ldImm x kk) ∧
    decode (packXKK 0x7 x kk) = .instr (.addImm x kk) ∧
    (∃ t, exec (.ldImm x kk) s = .next t ∧ t.reg x = kk ∧ (∀ r, r ≠ x → t.reg r = s.reg r) ∧
      t.pc = s.pc + 2 ∧ ChangesOnly [.regs, .pc] s t) ∧
    (∃ t, exec (.addImm x kk) s = .next t ∧
      (t.reg x).toNat = ((s.reg x).toNat + kk.toNat) % 256 ∧ (∀ r, r ≠ x → t.reg r = s.reg r) ∧
      t.pc = s.pc + 2 ∧ ChangesOnly [.regs, .pc] s t)

/-- Annn decodes to LD_I and Fx1E to ADD_I_VX. LD_I leaves I = nnn, ADD_I_VX leaves I = (I + V[x]) mod
4096; pc advances by 2 and nothing else changes, VF included. The reduction and the missing flag
are the spec's decisions D13 and D28. [derived: 42_single_purpose.md section 3;
46_control_family.md section 3; 92_eei_decisions.md D13; 92_eei_decisions.md D28] -/
def Obligations.IndexSetAndAddWrapAtTwelveBits : Prop :=
  ∀ (nnn : Addr) (x : RegIx) (s : State),
    decode (packNNN 0xA nnn) = .instr (.ldI nnn) ∧ decode (packXKK 0xF x 0x1E) = .instr (.addIVx x) ∧
    (∃ t, exec (.ldI nnn) s = .next t ∧ t.i = nnn ∧ t.pc = s.pc + 2 ∧ ChangesOnly [.i, .pc] s t) ∧
    (∃ t, exec (.addIVx x) s = .next t ∧ t.i.toNat = (s.i.toNat + (s.reg x).toNat) % 4096 ∧
      t.pc = s.pc + 2 ∧ ChangesOnly [.i, .pc] s t)

/-- Fx29 decodes to LD_F_VX. It answers a next state with I = 5 * (V[x] mod 16), FONT_BASE being
0x000, pc advanced by 2 and nothing else changed. (The wrap of pc at 4096 is the spec's decision
D2.) [stated: R226] -/
def Obligations.FontAddressIsFiveTimesTheLowNibble : Prop :=
  ∀ (x : RegIx) (s : State), decode (packXKK 0xF x 0x29) = .instr (.ldFVx x) ∧
    ∃ t, exec (.ldFVx x) s = .next t ∧ t.i.toNat = 0x000 + 5 * ((s.reg x).toNat % 16) ∧
      t.pc = s.pc + 2 ∧ ChangesOnly [.i, .pc] s t

/-- Cxkk decodes to RND. V[x] becomes the next draw of the RAND oracle AND kk, the draw count rises by
1, every other register is unchanged, pc advances by 2 and nothing else changes. The draw is a
free value (the spec's decision D20, log entry 3): the statement holds whatever it is, and with kk
= 0 the result is 0. [derived: 42_single_purpose.md section 4; 10_state.md section 12;
92_eei_decisions.md D20] -/
def Obligations.RndMasksOneFreeDraw : Prop :=
  ∀ (x : RegIx) (kk : Byte) (s : State), decode (packXKK 0xC x kk) = .instr (.rnd x kk) ∧
    ∃ t, exec (.rnd x kk) s = .next t ∧ t.reg x = Config.rand8 s.draws &&& kk ∧
      (kk = 0x00 → t.reg x = 0x00) ∧ (∀ r, r ≠ x → t.reg r = s.reg r) ∧ t.draws = s.draws + 1 ∧
      t.pc = s.pc + 2 ∧ ChangesOnly [.regs, .pc, .draws] s t

/-- 8xy0 decodes to MOV. It answers a next state with V[x] equal to the old V[y], every other register
unchanged (VF too unless x = F), pc advanced by 2 and nothing else changed. (The wrap of pc at
4096 is the spec's decision D2.) [stated: R172] -/
def Obligations.MovCopiesARegister : Prop :=
  ∀ (x y : RegIx) (s : State), decode (packXYN 0x8 x y 0x0) = .instr (.mov x y) ∧
    ∃ t, exec (.mov x y) s = .next t ∧ t.reg x = s.reg y ∧ (∀ r, r ≠ x → t.reg r = s.reg r) ∧
      t.pc = s.pc + 2 ∧ ChangesOnly [.regs, .pc] s t

/-- 8xy1, 8xy2 and 8xy3 decode to OR, AND and XOR. Bit b of the new V[x] is the or, the and, the
exclusive or of the old bits b of V[x] and V[y]; every other register is unchanged (VF too unless
x = F), pc advances by 2 and nothing else changes. That VF is not reset is the spec's decision D9.
[derived: 43_alu_family.md section 2; 92_eei_decisions.md D9] -/
def Obligations.LogicalOpsActBitByBitAndKeepVf : Prop :=
  ∀ (x y : RegIx) (s : State), decode (packXYN 0x8 x y 0x1) = .instr (.orReg x y) ∧
    decode (packXYN 0x8 x y 0x2) = .instr (.andReg x y) ∧
    decode (packXYN 0x8 x y 0x3) = .instr (.xorReg x y) ∧
    ∀ (i : Instr) (op : Bool → Bool → Bool),
      (i = .orReg x y ∧ op = Bool.or) ∨ (i = .andReg x y ∧ op = Bool.and) ∨
        (i = .xorReg x y ∧ op = Bool.xor) →
      ∃ t, exec i s = .next t ∧
        (∀ b, b < 8 → (t.reg x).getLsbD b = op ((s.reg x).getLsbD b) ((s.reg y).getLsbD b)) ∧
        (∀ r, r ≠ x → t.reg r = s.reg r) ∧ t.pc = s.pc + 2 ∧ ChangesOnly [.regs, .pc] s t

/-- 8xy4 decodes to ADD. VF becomes 1 if the old V[x] + V[y] exceeds 255 and 0 if not, whatever x and
y are; V[x] becomes the sum mod 256 unless x = F; every other register is unchanged, pc advances
by 2 and nothing else changes. That 8XY4 writes the carry is the spec's decision D10. [derived:
43_alu_family.md section 2; 92_eei_decisions.md D10] -/
def Obligations.AddWritesTheSumThenTheCarry : Prop :=
  ∀ (x y : RegIx) (s : State), decode (packXYN 0x8 x y 0x4) = .instr (.addReg x y) ∧
    ∃ t, exec (.addReg x y) s = .next t ∧
      t.reg VF = (if (s.reg x).toNat + (s.reg y).toNat > 255 then 1 else 0) ∧
      (x ≠ VF → (t.reg x).toNat = ((s.reg x).toNat + (s.reg y).toNat) % 256) ∧
      (∀ r, r ≠ x → r ≠ VF → t.reg r = s.reg r) ∧
      t.pc = s.pc + 2 ∧ ChangesOnly [.regs, .pc] s t

/-- 8xy5 decodes to SUB. VF becomes 0 if the old V[y] > V[x] and 1 if not, whatever x and y are; V[x]
becomes (a - b) mod 256 unless x = F; every other register is unchanged, pc advances by 2 and
nothing else changes. (The wrap of pc at 4096 is the spec's decision D2.) [stated: R177] -/
def Obligations.SubWritesTheDifferenceThenNotBorrow : Prop :=
  ∀ (x y : RegIx) (s : State), decode (packXYN 0x8 x y 0x5) = .instr (.subReg x y) ∧
    ∃ t, exec (.subReg x y) s = .next t ∧
      t.reg VF = (if (s.reg y).toNat > (s.reg x).toNat then 0 else 1) ∧
      (x ≠ VF → ((t.reg x).toNat : Int) = ((s.reg x).toNat - (s.reg y).toNat : Int) % 256) ∧
      (∀ r, r ≠ x → r ≠ VF → t.reg r = s.reg r) ∧
      t.pc = s.pc + 2 ∧ ChangesOnly [.regs, .pc] s t

/-- 8xy7 decodes to SUBN. VF becomes 0 if the old V[x] > V[y] and 1 if not, whatever x and y are; V[x]
becomes (b - a) mod 256 unless x = F; every other register is unchanged, pc advances by 2 and
nothing else changes. The result and the borrow condition are derived by the spec from SUB's with
the operands exchanged. [derived: 43_alu_family.md section 2] -/
def Obligations.SubnWritesTheReverseDifferenceThenNotBorrow : Prop :=
  ∀ (x y : RegIx) (s : State), decode (packXYN 0x8 x y 0x7) = .instr (.subnReg x y) ∧
    ∃ t, exec (.subnReg x y) s = .next t ∧
      t.reg VF = (if (s.reg x).toNat > (s.reg y).toNat then 0 else 1) ∧
      (x ≠ VF → ((t.reg x).toNat : Int) = ((s.reg y).toNat - (s.reg x).toNat : Int) % 256) ∧
      (∀ r, r ≠ x → r ≠ VF → t.reg r = s.reg r) ∧
      t.pc = s.pc + 2 ∧ ChangesOnly [.regs, .pc] s t

/-- 8xy6 decodes to SRL and 8xyE to SLL. With v the old V[x]: SRL leaves V[x] = v >> 1 and VF = v mod
2, SLL leaves V[x] = 2v mod 256 and VF = bit 7 of v; for x = F, VF holds the flag. V[y] is not
read, every other register is unchanged, pc advances by 2 and nothing else changes. (The wrap of
pc at 4096 is the spec's decision D2.) [stated: R178; R180] -/
def Obligations.ShiftsMoveByOneThenWriteTheBitShiftedOut : Prop :=
  ∀ (x y : RegIx) (s : State), decode (packXYN 0x8 x y 0x6) = .instr (.srl x y) ∧
    decode (packXYN 0x8 x y 0xE) = .instr (.sll x y) ∧
    (∃ t, exec (.srl x y) s = .next t ∧ (t.reg VF).toNat = (s.reg x).toNat % 2 ∧
      (x ≠ VF → (t.reg x).toNat = (s.reg x).toNat / 2) ∧
      (∀ r, r ≠ x → r ≠ VF → t.reg r = s.reg r) ∧
      t.pc = s.pc + 2 ∧ ChangesOnly [.regs, .pc] s t) ∧
    (∃ t, exec (.sll x y) s = .next t ∧ (t.reg VF).toNat = (s.reg x).toNat / 128 ∧
      (x ≠ VF → (t.reg x).toNat = (s.reg x).toNat * 2 % 256) ∧
      (∀ r, r ≠ x → r ≠ VF → t.reg r = s.reg r) ∧
      t.pc = s.pc + 2 ∧ ChangesOnly [.regs, .pc] s t)

/-- Dxyn decodes to DRW. DRW answers a next state in which pixel (px, py) of the 64x32 screen differs
from before iff some sprite bit 7 - i of row r < n is 1 with px = V[x] mod 64 + i and py = V[y]
mod 32 + r (the pixel form); VF is 1 if some inverted pixel was lit before and 0 if not; every
other register is unchanged, pc advances by 2, I, memory and the rest do not change. Rows below
the screen and n = 0 are the spec's decisions D15 and D16. [derived: 44_sprite_renderer.md;
92_eei_decisions.md D15; 92_eei_decisions.md D16] -/
def Obligations.DrwInvertsTheSpritePixelsAndReportsCollision : Prop :=
  ∀ (x y : RegIx) (n : Nibble) (s : State), decode (packXYN 0xD x y n) = .instr (.drw x y n) ∧
    ∃ t, exec (.drw x y n) s = .next t ∧
      (∀ px py, px < 64 → py < 32 →
        (pixel t.fb px py ≠ pixel s.fb px py ↔ s.SpriteInverts x y n px py)) ∧
      ((∃ px py, px < 64 ∧ py < 32 ∧ s.SpriteInverts x y n px py ∧ pixel s.fb px py = true) →
        t.reg VF = 1) ∧
      ((¬∃ px py, px < 64 ∧ py < 32 ∧ s.SpriteInverts x y n px py ∧ pixel s.fb px py = true) →
        t.reg VF = 0) ∧
      (∀ r, r ≠ VF → t.reg r = s.reg r) ∧ t.pc = s.pc + 2 ∧ ChangesOnly [.regs, .fb, .pc] s t

/-- If neither x nor y is F (the collision flag would move the origin), executing the same DRW in the
state the first one left gives back the framebuffer from before both. [derived:
44_sprite_renderer.md; 95_test_vectors.md section 1] -/
def Obligations.DrawingTwiceRestoresTheScreen : Prop :=
  ∀ (x y : RegIx) (n : Nibble) (s : State), x ≠ VF → y ≠ VF →
    ∃ t u, exec (.drw x y n) s = .next t ∧ exec (.drw x y n) t = .next u ∧ u.fb = s.fb

/-- Fx07, Fx15 and Fx18 decode to LD_VX_DT, LD_DT_VX and LD_ST_VX. LD_VX_DT leaves V[x] = DT as it
stands at the cycle and every other register unchanged; LD_DT_VX leaves DT = V[x], LD_ST_VX leaves
ST = V[x]; each advances pc by 2 and changes nothing else. (The wrap of pc at 4096 is the spec's
decision D2.) [stated: R221; R223; R224] -/
def Obligations.TimerInstructionsMoveTimersAndRegisters : Prop :=
  ∀ (x : RegIx) (s : State), decode (packXKK 0xF x 0x07) = .instr (.ldVxDt x) ∧
    decode (packXKK 0xF x 0x15) = .instr (.ldDtVx x) ∧
    decode (packXKK 0xF x 0x18) = .instr (.ldStVx x) ∧
    (∃ t, exec (.ldVxDt x) s = .next t ∧ t.reg x = s.dt ∧ (∀ r, r ≠ x → t.reg r = s.reg r) ∧
      t.pc = s.pc + 2 ∧ ChangesOnly [.regs, .pc] s t) ∧
    (∃ t, exec (.ldDtVx x) s = .next t ∧ t.dt = s.reg x ∧ t.pc = s.pc + 2 ∧
      ChangesOnly [.dt, .pc] s t) ∧
    (∃ t, exec (.ldStVx x) s = .next t ∧ t.st = s.reg x ∧ t.pc = s.pc + 2 ∧
      ChangesOnly [.st, .pc] s t)

/-- Fx0A decodes to LD_VX_K. It answers a next state with run = AwaitingKey and awaitReg = x, pc and
everything else unchanged, whether or not a key is pressed. A cycle in that state with lowest
pressed key k then leaves V[x] = k, run = Running and pc advanced by 2. (The wrap of pc at 4096 is
the spec's decision D2.) [stated: R222] -/
def Obligations.KeyWaitInstructionOnlyEntersTheWait : Prop :=
  ∀ (x : RegIx) (s : State), decode (packXKK 0xF x 0x0A) = .instr (.ldVxK x) ∧
    ∃ t, exec (.ldVxK x) s = .next t ∧ t.run = .awaitingKey ∧ t.awaitReg = x ∧
      ChangesOnly [.run, .awaitReg] s t ∧
      ∀ k : KeyIx, s.keyDown k = true → (∀ j : KeyIx, j.toNat < k.toNat → s.keyDown j = false) →
        ∃ u, cycle t = .next u ∧ (u.reg x).toNat = k.toNat ∧ u.run = .running ∧ u.pc = s.pc + 2 ∧
          ChangesOnly [.regs, .pc, .run] t u ∧ ∀ r, r ≠ x → u.reg r = t.reg r

/-- Fx33 decodes to LD_B_VX. With v = V[x], memory holds v / 100 at I, (v / 10) mod 10 at I + 1 and v
mod 10 at I + 2, addresses mod 4096 (the spec's decision D2); every other byte reads as before, pc
advances by 2 and nothing else changes, I included. [derived: 46_control_family.md section 4;
20_memory.md section 2; 92_eei_decisions.md D2] -/
def Obligations.BcdStoresHundredsTensOnes : Prop :=
  ∀ (x : RegIx) (s : State), decode (packXKK 0xF x 0x33) = .instr (.ldBVx x) ∧
    ∃ t, exec (.ldBVx x) s = .next t ∧ (t.memRead (s.indexed 0)).toNat = (s.reg x).toNat / 100 ∧
      (t.memRead (s.indexed 1)).toNat = (s.reg x).toNat / 10 % 10 ∧
      (t.memRead (s.indexed 2)).toNat = (s.reg x).toNat % 10 ∧
      (∀ k, k < 3 → (s.indexed k).toNat = (s.i.toNat + k) % 4096) ∧
      (∀ a, a ≠ s.indexed 0 → a ≠ s.indexed 1 → a ≠ s.indexed 2 → t.memRead a = s.memRead a) ∧
      t.pc = s.pc + 2 ∧ ChangesOnly [.mem, .pc] s t

/-- Fx55 decodes to LD_MEM_VX. For every k from 0 to x the byte at (I + k) mod 4096 is V[k]; every
byte at another address reads as before; pc advances by 2 and nothing else changes. The wrap and
the unchanged I are the spec's decisions D2 and D12. [derived: 46_control_family.md section 4;
92_eei_decisions.md D2; 92_eei_decisions.md D12] -/
def Obligations.DumpStoresV0ToVxInclusive : Prop :=
  ∀ (x : RegIx) (s : State), decode (packXKK 0xF x 0x55) = .instr (.ldMemVx x) ∧
    ∃ t, exec (.ldMemVx x) s = .next t ∧
      (∀ k, k ≤ x.toNat → (s.indexed k).toNat = (s.i.toNat + k) % 4096 ∧
        t.memRead (s.indexed k) = s.reg (BitVec.ofNat 4 k)) ∧
      (∀ a, (∀ k, k ≤ x.toNat → a ≠ s.indexed k) → t.memRead a = s.memRead a) ∧
      t.pc = s.pc + 2 ∧ ChangesOnly [.mem, .pc] s t

/-- Fx65 decodes to LD_VX_MEM. For every register r with number at most x, V[r] is the byte at (I + r)
mod 4096; every register above x is unchanged; pc advances by 2 and nothing else changes. The wrap
and the unchanged I are the spec's decisions D2 and D12. [derived: 46_control_family.md section 4;
92_eei_decisions.md D2; 92_eei_decisions.md D12] -/
def Obligations.RestoreLoadsV0ToVxInclusive : Prop :=
  ∀ (x : RegIx) (s : State), decode (packXKK 0xF x 0x65) = .instr (.ldVxMem x) ∧
    ∃ t, exec (.ldVxMem x) s = .next t ∧
      (∀ r : RegIx, r.toNat ≤ x.toNat →
        t.reg r = s.memRead (BitVec.ofNat 12 ((s.i.toNat + r.toNat) % 4096))) ∧
      (∀ r : RegIx, x.toNat < r.toNat → t.reg r = s.reg r) ∧
      t.pc = s.pc + 2 ∧ ChangesOnly [.regs, .pc] s t

/-- Dump V0 to V[x], change every register at will, then restore with the same x at the same I: V0 to
V[x] hold what was dumped and the registers above x keep what they held. [derived:
46_control_family.md section 4; 95_test_vectors.md section 1] -/
def Obligations.DumpThenRestoreGivesTheRegistersBack : Prop :=
  ∀ (x : RegIx) (s : State) (v : Vector Byte 16),
    ∃ t u, exec (.ldMemVx x) s = .next t ∧ exec (.ldVxMem x) { t with v := v } = .next u ∧
      (∀ r : RegIx, r.toNat ≤ x.toNat → u.reg r = s.reg r) ∧
      (∀ r : RegIx, x.toNat < r.toNat → u.reg r = v[r.toNat]'r.isLt)

/-- If a step changes some byte of memory, its event was a load, or a cycle in Running that executed
LD_B_VX or LD_MEM_VX. So a tick, a set_key, and a cycle in AwaitingKey or Faulted never change it.
[stated: R76] -/
def Obligations.OnlyBcdDumpAndLoadChangeMemory : Prop :=
  ∀ (s t : State), step s = .next t → (∃ a : Addr, t.memRead a ≠ s.memRead a) →
    (∃ image, s.nextEvent = .load image) ∨
    (s.nextEvent = .cycle ∧ s.run = .running ∧
      ∃ x, decode (s.fetch16 s.pc) = .instr (.ldBVx x) ∨ decode (s.fetch16 s.pc) = .instr (.ldMemVx x))

/-- If a step changes the framebuffer, its event was a load, or a cycle in Running that executed CLS
or DRW. [derived: 10_state.md section 7] -/
def Obligations.OnlyClsDrwAndLoadChangeTheScreen : Prop :=
  ∀ (s t : State), step s = .next t → t.fb ≠ s.fb →
    (∃ image, s.nextEvent = .load image) ∨
    (s.nextEvent = .cycle ∧ s.run = .running ∧
      (decode (s.fetch16 s.pc) = .instr .cls ∨
        ∃ x y n, decode (s.fetch16 s.pc) = .instr (.drw x y n)))

/-- If a step changes the call stack, its event was a load, or a cycle in Running that executed CALL
or RET. [derived: 10_state.md section 6] -/
def Obligations.OnlyCallRetAndLoadChangeTheStack : Prop :=
  ∀ (s t : State), step s = .next t → t.stack ≠ s.stack →
    (∃ image, s.nextEvent = .load image) ∨
    (s.nextEvent = .cycle ∧ s.run = .running ∧
      (decode (s.fetch16 s.pc) = .instr .ret ∨
        ∃ nnn, decode (s.fetch16 s.pc) = .instr (.call nnn)))

/-- If a step makes DT larger, it was a cycle in Running that executed LD_DT_VX; if it makes ST
larger, one that executed LD_ST_VX. Otherwise each timer stays or falls. [derived: 10_state.md
section 5; 60_exceptions.md section 3] -/
def Obligations.TimersRiseOnlyWhenSet : Prop :=
  ∀ (s t : State), step s = .next t →
    (t.dt.toNat > s.dt.toNat → s.nextEvent = .cycle ∧ s.run = .running ∧
      ∃ x, decode (s.fetch16 s.pc) = .instr (.ldDtVx x)) ∧
    (t.st.toNat > s.st.toNat → s.nextEvent = .cycle ∧ s.run = .running ∧
      ∃ x, decode (s.fetch16 s.pc) = .instr (.ldStVx x))

/-- For every instruction and state, if exec answers a next state then every register outside the
instruction's list is unchanged: V[x] for 6XKK, 7XKK, 8XY0 to 8XY3, CXKK and FX07; V[x] and VF for
the flag-writing ALU instructions; VF for DXYN; V0 to V[x] for FX65; none for the rest, FX0A's own
cycle included. [derived: 10_state.md section 1] -/
def Obligations.InstructionsWriteOnlyTheirRegisters : Prop :=
  ∀ (i : Instr) (s t : State), exec i s = .next t →
    ∀ r : RegIx, mayWriteReg i r = false → t.reg r = s.reg r

/-- Changing ST before a cycle changes nothing in the state after it but ST itself: no instruction
reads ST, and neither does the key wait. [derived: 10_state.md section 5; 46_control_family.md
section 1] -/
def Obligations.NoCycleReadsTheSoundTimer : Prop :=
  ∀ (s t : State) (b : Byte), cycle s = .next t →
    ∃ u, cycle { s with st := b } = .next u ∧ { u with st := t.st } = t

/-- If, with ENFORCE_EVEN_PC true, pc and all return addresses on the stack are even before a step,
they are so after it, for every event and instruction. That the invariant is enforced is the
spec's decision D4. [derived: 10_state.md section 2; 41_machine_family.md; 92_eei_decisions.md D4] -/
def Obligations.StepKeepsPcAndReturnAddressesEven : Prop :=
  ∀ (s t : State), s.PcEven → step s = .next t → t.PcEven

/-- If memory's list is canonical before a step (addresses strictly rising and below 4096, no entry
equal to what an unlisted address reads as), it is so after it, for every event and instruction.
The canonical form is the model's representation (log entry 7). [derived: 20_memory.md sections 1
and 5] -/
def Obligations.StepKeepsMemoryCanonical : Prop :=
  ∀ (s t : State), s.MemCanonical → step s = .next t → t.MemCanonical

/-- If the fault register is none exactly while run is not Faulted before a step, it is so after it,
for every event and instruction. The Faulted state is the spec's decision D17. [derived:
10_state.md section 10; 60_exceptions.md section 1; 92_eei_decisions.md D17] -/
def Obligations.StepKeepsFaultRecordedExactlyInFaulted : Prop :=
  ∀ (s t : State), s.FaultRecorded → step s = .next t → t.FaultRecorded

/-- If the stack holds at most STACK_DEPTH entries before a step (any number where STACK_DEPTH is
unbounded), it does so after it. The parameter is the spec's decision D3. [derived: 10_state.md
section 6; 92_eei_decisions.md D3] -/
def Obligations.StepKeepsTheStackWithinItsDepth : Prop :=
  ∀ (s t : State), s.StackBounded → step s = .next t → t.StackBounded

/-- In State.reset memory is canonical, pc is even, fault is none and run is not Faulted, and the
stack is within its depth. The canonical form is the model's representation (log entry 7); that
State.reset has no image loaded is the model's (log entry 4); the empty stack and the empty fault
register are the spec's decision D1. [derived: 10_state.md sections 2, 6, 10 and 11; 20_memory.md
section 1; 92_eei_decisions.md D1] -/
def Obligations.ResetMeetsTheInvariants : Prop :=
  State.reset.Inv

/-- STACK_DEPTH, FONT, ENFORCE_EVEN_PC and SYS_AS_NOP are the same after every step, a load included.
That they stand in State is the model's (log entry 1). [derived: 00_scope.md section 3;
10_state.md sections 10 and 12] -/
def Obligations.StepNeverChangesAParameter : Prop :=
  ∀ (s t : State), step s = .next t → t.cfg = s.cfg
end

