-- ==== Sys2Proof/Laws/Encoding.lean ====
section
/-!
SUPPORT. The fields of a packed word, and a word as its packed fields: what proofs about `decode` and
`encode` cite instead of unfolding bit slices.
-/

namespace Sys2Proof

theorem toNat_packNNN (t : Nibble) (a : Addr) : (packNNN t a).toNat = t.toNat * 4096 + a.toNat := by
  have ha := a.isLt
  have h : (packNNN t a).toNat = (t.toNat <<< 12 ||| a.toNat) := by
    rw [← BitVec.toNat_append]; rfl
  rw [h, ← Nat.shiftLeft_add_eq_or_of_lt (by omega)]
  simp only [Nat.shiftLeft_eq]

theorem toNat_packXKK (t : Nibble) (x : RegIx) (kk : Byte) :
    (packXKK t x kk).toNat = t.toNat * 4096 + x.toNat * 256 + kk.toNat := by
  have hx := x.isLt
  have hk := kk.isLt
  have h : (packXKK t x kk).toNat = ((t.toNat <<< 4 ||| x.toNat) <<< 8 ||| kk.toNat) := by
    rw [← BitVec.toNat_append, ← BitVec.toNat_append]; rfl
  rw [h, ← Nat.shiftLeft_add_eq_or_of_lt (by omega), ← Nat.shiftLeft_add_eq_or_of_lt (by omega)]
  simp only [Nat.shiftLeft_eq]; omega

theorem toNat_packXYN (t : Nibble) (x y : RegIx) (n : Nibble) :
    (packXYN t x y n).toNat = t.toNat * 4096 + x.toNat * 256 + y.toNat * 16 + n.toNat := by
  have hx := x.isLt
  have hy := y.isLt
  have hn := n.isLt
  have h : (packXYN t x y n).toNat
      = (((t.toNat <<< 4 ||| x.toNat) <<< 4 ||| y.toNat) <<< 4 ||| n.toNat) := by
    rw [← BitVec.toNat_append, ← BitVec.toNat_append, ← BitVec.toNat_append]; rfl
  rw [h, ← Nat.shiftLeft_add_eq_or_of_lt (by omega), ← Nat.shiftLeft_add_eq_or_of_lt (by omega),
    ← Nat.shiftLeft_add_eq_or_of_lt (by omega)]
  simp only [Nat.shiftLeft_eq]; omega

theorem toNat_fieldTop (w : Word) : (fieldTop w).toNat = w.toNat / 4096 := by
  have := w.isLt
  simp [fieldTop, Nat.shiftRight_eq_div_pow]; omega

theorem toNat_fieldX (w : Word) : (fieldX w).toNat = w.toNat / 256 % 16 := by
  simp [fieldX, Nat.shiftRight_eq_div_pow]

theorem toNat_fieldY (w : Word) : (fieldY w).toNat = w.toNat / 16 % 16 := by
  simp [fieldY, Nat.shiftRight_eq_div_pow]

theorem toNat_fieldN (w : Word) : (fieldN w).toNat = w.toNat % 16 := by
  simp [fieldN]

theorem toNat_fieldKK (w : Word) : (fieldKK w).toNat = w.toNat % 256 := by
  simp [fieldKK]

theorem toNat_fieldNNN (w : Word) : (fieldNNN w).toNat = w.toNat % 4096 := by
  simp [fieldNNN]

@[simp] theorem fieldTop_packNNN (t : Nibble) (a : Addr) : fieldTop (packNNN t a) = t := by
  have ht := t.isLt
  have ha := a.isLt
  apply BitVec.eq_of_toNat_eq; rw [toNat_fieldTop, toNat_packNNN]; omega

@[simp] theorem fieldNNN_packNNN (t : Nibble) (a : Addr) : fieldNNN (packNNN t a) = a := by
  have ha := a.isLt
  apply BitVec.eq_of_toNat_eq; rw [toNat_fieldNNN, toNat_packNNN]; omega

@[simp] theorem fieldTop_packXKK (t : Nibble) (x : RegIx) (kk : Byte) :
    fieldTop (packXKK t x kk) = t := by
  have ht := t.isLt
  have hx := x.isLt
  have hk := kk.isLt
  apply BitVec.eq_of_toNat_eq; rw [toNat_fieldTop, toNat_packXKK]; omega

@[simp] theorem fieldX_packXKK (t : Nibble) (x : RegIx) (kk : Byte) :
    fieldX (packXKK t x kk) = x := by
  have hx := x.isLt
  have hk := kk.isLt
  apply BitVec.eq_of_toNat_eq; rw [toNat_fieldX, toNat_packXKK]; omega

@[simp] theorem fieldKK_packXKK (t : Nibble) (x : RegIx) (kk : Byte) :
    fieldKK (packXKK t x kk) = kk := by
  have hk := kk.isLt
  apply BitVec.eq_of_toNat_eq; rw [toNat_fieldKK, toNat_packXKK]; omega

@[simp] theorem fieldTop_packXYN (t : Nibble) (x y : RegIx) (n : Nibble) :
    fieldTop (packXYN t x y n) = t := by
  have ht := t.isLt
  have hx := x.isLt
  have hy := y.isLt
  have hn := n.isLt
  apply BitVec.eq_of_toNat_eq; rw [toNat_fieldTop, toNat_packXYN]; omega

@[simp] theorem fieldX_packXYN (t : Nibble) (x y : RegIx) (n : Nibble) :
    fieldX (packXYN t x y n) = x := by
  have hx := x.isLt
  have hy := y.isLt
  have hn := n.isLt
  apply BitVec.eq_of_toNat_eq; rw [toNat_fieldX, toNat_packXYN]; omega

@[simp] theorem fieldY_packXYN (t : Nibble) (x y : RegIx) (n : Nibble) :
    fieldY (packXYN t x y n) = y := by
  have hy := y.isLt
  have hn := n.isLt
  apply BitVec.eq_of_toNat_eq; rw [toNat_fieldY, toNat_packXYN]; omega

@[simp] theorem fieldN_packXYN (t : Nibble) (x y : RegIx) (n : Nibble) :
    fieldN (packXYN t x y n) = n := by
  have hn := n.isLt
  apply BitVec.eq_of_toNat_eq; rw [toNat_fieldN, toNat_packXYN]; omega

/-- A word is its top nibble and its `nnn`. -/
theorem packNNN_fields (w : Word) : packNNN (fieldTop w) (fieldNNN w) = w := by
  have hw := w.isLt
  apply BitVec.eq_of_toNat_eq; rw [toNat_packNNN, toNat_fieldTop, toNat_fieldNNN]; omega

/-- A word is its top nibble, its `x` and its `kk`. -/
theorem packXKK_fields (w : Word) : packXKK (fieldTop w) (fieldX w) (fieldKK w) = w := by
  have hw := w.isLt
  apply BitVec.eq_of_toNat_eq; rw [toNat_packXKK, toNat_fieldTop, toNat_fieldX, toNat_fieldKK]; omega

/-- A word is its four nibbles. -/
theorem packXYN_fields (w : Word) : packXYN (fieldTop w) (fieldX w) (fieldY w) (fieldN w) = w := by
  have hw := w.isLt
  apply BitVec.eq_of_toNat_eq
  rw [toNat_packXYN, toNat_fieldTop, toNat_fieldX, toNat_fieldY, toNat_fieldN]; omega

theorem toNat_joinBytes (hi lo : Byte) : (joinBytes hi lo).toNat = hi.toNat * 256 + lo.toNat := by
  have hl := lo.isLt
  have h : (joinBytes hi lo).toNat = (hi.toNat <<< 8 ||| lo.toNat) := by
    rw [← BitVec.toNat_append]; rfl
  rw [h, ← Nat.shiftLeft_add_eq_or_of_lt (by omega)]
  simp only [Nat.shiftLeft_eq]

theorem toNat_highByte (w : Word) : (highByte w).toNat = w.toNat / 256 := by
  have := w.isLt
  simp [highByte, Nat.shiftRight_eq_div_pow]; omega

theorem toNat_lowByte (w : Word) : (lowByte w).toNat = w.toNat % 256 := by
  simp [lowByte]

/-- A word's two bytes joined again are the word (20_memory.md R63). -/
@[simp] theorem joinBytes_high_low (w : Word) : joinBytes (highByte w) (lowByte w) = w := by
  have hw := w.isLt
  apply BitVec.eq_of_toNat_eq; rw [toNat_joinBytes, toNat_highByte, toNat_lowByte]; omega

@[simp] theorem highByte_joinBytes (hi lo : Byte) : highByte (joinBytes hi lo) = hi := by
  have hh := hi.isLt
  have hl := lo.isLt
  apply BitVec.eq_of_toNat_eq; rw [toNat_highByte, toNat_joinBytes]; omega

@[simp] theorem lowByte_joinBytes (hi lo : Byte) : lowByte (joinBytes hi lo) = lo := by
  have hl := lo.isLt
  apply BitVec.eq_of_toNat_eq; rw [toNat_lowByte, toNat_joinBytes]; omega

/-- The decoder on a word's own bytes is `decode` of the word. -/
@[simp] theorem decodeBytes_wordBytes (w : Word) (rest : List Byte) :
    decodeBytes (wordBytes w ++ rest) = .decoded (decode w) rest := by
  simp [wordBytes, decodeBytes]

end Sys2Proof
end

