-- ==== Sys2Proof/Laws/Memory.lean ====
section
/-!
SUPPORT. The laws of memory: a read after a write, and that every memory operation keeps the canonical
form (log entry 7).
-/

namespace Sys2Proof.Machine

theorem Memory.lookup_put (m : Memory) (a : Nat) (b : Byte) (k : Nat) :
    Memory.lookup (Memory.put a b m) k = if k = a then some b else Memory.lookup m k := by
  induction m with
  | nil => simp [Memory.put, Memory.lookup, eq_comm]
  | cons c m ih =>
    obtain ⟨j, d⟩ := c
    simp only [Memory.put]
    split
    · simp [Memory.lookup, eq_comm]
    · split
      · rename_i h; subst h; simp only [Memory.lookup]; split <;> simp_all [eq_comm]
      · simp only [Memory.lookup, ih]; split <;> simp_all [eq_comm]

theorem Memory.lookup_erase (m : Memory) (a k : Nat) :
    Memory.lookup (Memory.erase a m) k = if k = a then none else Memory.lookup m k := by
  induction m with
  | nil => simp [Memory.erase, Memory.lookup]
  | cons c m ih =>
    obtain ⟨j, d⟩ := c
    simp only [Memory.erase]
    split
    · rename_i h; subst h; rw [ih]; simp only [Memory.lookup]; split <;> simp_all [eq_comm]
    · simp only [Memory.lookup, ih]; split <;> simp_all

/-- Read after write: the written byte at that address, the old byte everywhere else. -/
theorem Memory.read_write (cfg : Config) (m : Memory) (a : Nat) (b : Byte) (k : Nat) :
    Memory.read cfg (Memory.write cfg m a b) k = if k = a then b else Memory.read cfg m k := by
  unfold Memory.read Memory.write
  split
  · rename_i h; rw [Memory.lookup_erase]; split <;> simp_all
  · rw [Memory.lookup_put]; split <;> simp

theorem Memory.mem_put {c : Host.Cell} {a : Nat} {b : Byte} {m : Memory}
    (h : c ∈ Memory.put a b m) : c = (a, b) ∨ c ∈ m := by
  induction m with
  | nil => simpa [Memory.put] using h
  | cons d m ih =>
    obtain ⟨j, e⟩ := d
    simp only [Memory.put] at h
    split at h
    · simpa using h
    · split at h
      · simp only [List.mem_cons] at h ⊢; tauto
      · simp only [List.mem_cons] at h ⊢; tauto

theorem Memory.mem_erase {c : Host.Cell} {a : Nat} {m : Memory} (h : c ∈ Memory.erase a m) :
    c ∈ m := by
  induction m with
  | nil => simp [Memory.erase] at h
  | cons d m ih =>
    obtain ⟨j, e⟩ := d
    simp only [Memory.erase] at h
    split at h
    · exact List.mem_cons_of_mem _ (ih h)
    · simp only [List.mem_cons] at h ⊢; tauto

theorem Memory.pairwise_put {m : Memory} (a : Nat) (b : Byte)
    (h : m.Pairwise (fun c d => c.1 < d.1)) :
    (Memory.put a b m).Pairwise (fun c d => c.1 < d.1) := by
  induction m with
  | nil => simp [Memory.put]
  | cons d m ih =>
    obtain ⟨j, e⟩ := d
    obtain ⟨hj, hm⟩ := List.pairwise_cons.mp h
    simp only [Memory.put]
    split
    · refine List.pairwise_cons.mpr ⟨fun c hc => ?_, h⟩
      rcases List.mem_cons.mp hc with rfl | hc
      · assumption
      · have := hj c hc; omega
    · split
      · subst_vars; exact List.pairwise_cons.mpr ⟨hj, hm⟩
      · refine List.pairwise_cons.mpr ⟨fun c hc => ?_, ih hm⟩
        rcases Memory.mem_put hc with rfl | hc
        · simp only; omega
        · exact hj c hc

theorem Memory.pairwise_erase {m : Memory} (a : Nat) (h : m.Pairwise (fun c d => c.1 < d.1)) :
    (Memory.erase a m).Pairwise (fun c d => c.1 < d.1) := by
  induction m with
  | nil => simp [Memory.erase]
  | cons d m ih =>
    obtain ⟨j, e⟩ := d
    obtain ⟨hj, hm⟩ := List.pairwise_cons.mp h
    simp only [Memory.erase]
    split
    · exact ih hm
    · exact List.pairwise_cons.mpr ⟨fun c hc => hj c (Memory.mem_erase hc), ih hm⟩

/-- A write below 4096 keeps the canonical form. -/
theorem Memory.wf_write {cfg : Config} {m : Memory} {a : Nat} (b : Byte) (ha : a < 4096)
    (h : Memory.wf cfg m) : Memory.wf cfg (Memory.write cfg m a b) := by
  unfold Memory.write
  split
  · exact ⟨Memory.pairwise_erase a h.1, fun c hc => h.2 c (Memory.mem_erase hc)⟩
  · rename_i hb
    refine ⟨Memory.pairwise_put a b h.1, fun c hc => ?_⟩
    rcases Memory.mem_put hc with rfl | hc
    · exact ⟨ha, hb⟩
    · exact h.2 c hc

/-- Placing a string of bytes that fits keeps the canonical form. -/
theorem Memory.wf_place {cfg : Config} {m : Memory} (a : Nat) (bs : List Byte)
    (ha : a + bs.length ≤ 4096) (h : Memory.wf cfg m) : Memory.wf cfg (Memory.place cfg a bs m) := by
  induction bs generalizing a with
  | nil => exact h
  | cons b bs ih =>
    simp only [List.length_cons] at ha
    exact Memory.wf_write b (by omega) (ih (a + 1) (by omega))

/-- What placed bytes read as: byte `i` of the string at `a + i`, the old byte elsewhere. -/
theorem Memory.read_place (cfg : Config) (m : Memory) (a : Nat) (bs : List Byte) (k : Nat) :
    Memory.read cfg (Memory.place cfg a bs m) k =
      if a ≤ k ∧ k < a + bs.length then bs.getD (k - a) 0 else Memory.read cfg m k := by
  induction bs generalizing a with
  | nil => simp [Memory.place]
  | cons b bs ih =>
    simp only [Memory.place, Memory.read_write, List.length_cons]
    split
    · subst_vars; simp
    · rw [ih]
      by_cases hk : a + 1 ≤ k
      · obtain ⟨d, rfl⟩ : ∃ d, k = a + 1 + d := ⟨k - (a + 1), by omega⟩
        have h1 : a + 1 + d - a = d + 1 := by omega
        have h2 : a + 1 + d - (a + 1) = d := by omega
        rw [h1, h2, List.getD_cons_succ]
        congr 1
        apply propext; omega
      · rw [if_neg (by omega), if_neg (by omega)]

/-- Reset's memory is canonical. -/
theorem Memory.wf_reset : Memory.wf State.reset.cfg State.reset.mem := by decide

/-- A store keeps the canonical form. -/
theorem State.memWrite_wf (s : State) (a : Addr) (b : Byte) (h : Memory.wf s.cfg s.mem) :
    Memory.wf (s.memWrite a b).cfg (s.memWrite a b).mem := Memory.wf_write b a.isLt h

/-- The memory of an accepted image is canonical. -/
theorem loadedMemory_wf (cfg : Config) (image : List Byte) (h : imageAccepted image = true) :
    Memory.wf cfg (loadedMemory cfg image) := by
  have hl : image.length ≤ 4096 - 0x200 := (of_decide_eq_true h).2
  have hl : 0x200 + image.length ≤ 4096 := by omega
  exact Memory.wf_place 0x200 image hl ⟨List.Pairwise.nil, nofun⟩

end Sys2Proof.Machine
end

