-- ==== Sys2Proof/Laws/State.lean ====
section
/-!
SUPPORT. One lemma per field per update of State, true by rfl, so that no later proof unfolds a record
update. The register, memory, key and framebuffer reads after a write are in Laws/Ops.lean.
-/

namespace Sys2Proof.Machine

variable (s : State)

/-! ### memWrite -/

@[simp] theorem State.memWrite_mem (a : Addr) (b : Byte) : (s.memWrite a b).mem = Memory.write s.cfg s.mem a.toNat b := rfl
@[simp] theorem State.memWrite_v (a : Addr) (b : Byte) : (s.memWrite a b).v = s.v := rfl
@[simp] theorem State.memWrite_i (a : Addr) (b : Byte) : (s.memWrite a b).i = s.i := rfl
@[simp] theorem State.memWrite_pc (a : Addr) (b : Byte) : (s.memWrite a b).pc = s.pc := rfl
@[simp] theorem State.memWrite_stack (a : Addr) (b : Byte) : (s.memWrite a b).stack = s.stack := rfl
@[simp] theorem State.memWrite_dt (a : Addr) (b : Byte) : (s.memWrite a b).dt = s.dt := rfl
@[simp] theorem State.memWrite_st (a : Addr) (b : Byte) : (s.memWrite a b).st = s.st := rfl
@[simp] theorem State.memWrite_key (a : Addr) (b : Byte) : (s.memWrite a b).key = s.key := rfl
@[simp] theorem State.memWrite_fb (a : Addr) (b : Byte) : (s.memWrite a b).fb = s.fb := rfl
@[simp] theorem State.memWrite_run (a : Addr) (b : Byte) : (s.memWrite a b).run = s.run := rfl
@[simp] theorem State.memWrite_awaitReg (a : Addr) (b : Byte) : (s.memWrite a b).awaitReg = s.awaitReg := rfl
@[simp] theorem State.memWrite_fault (a : Addr) (b : Byte) : (s.memWrite a b).fault = s.fault := rfl
@[simp] theorem State.memWrite_cfg (a : Addr) (b : Byte) : (s.memWrite a b).cfg = s.cfg := rfl
@[simp] theorem State.memWrite_events (a : Addr) (b : Byte) : (s.memWrite a b).events = s.events := rfl
@[simp] theorem State.memWrite_draws (a : Addr) (b : Byte) : (s.memWrite a b).draws = s.draws := rfl

/-! ### setReg -/

@[simp] theorem State.setReg_mem (x : RegIx) (b : Byte) : (s.setReg x b).mem = s.mem := rfl
@[simp] theorem State.setReg_v (x : RegIx) (b : Byte) : (s.setReg x b).v = s.v.set x.toNat b x.isLt := rfl
@[simp] theorem State.setReg_i (x : RegIx) (b : Byte) : (s.setReg x b).i = s.i := rfl
@[simp] theorem State.setReg_pc (x : RegIx) (b : Byte) : (s.setReg x b).pc = s.pc := rfl
@[simp] theorem State.setReg_stack (x : RegIx) (b : Byte) : (s.setReg x b).stack = s.stack := rfl
@[simp] theorem State.setReg_dt (x : RegIx) (b : Byte) : (s.setReg x b).dt = s.dt := rfl
@[simp] theorem State.setReg_st (x : RegIx) (b : Byte) : (s.setReg x b).st = s.st := rfl
@[simp] theorem State.setReg_key (x : RegIx) (b : Byte) : (s.setReg x b).key = s.key := rfl
@[simp] theorem State.setReg_fb (x : RegIx) (b : Byte) : (s.setReg x b).fb = s.fb := rfl
@[simp] theorem State.setReg_run (x : RegIx) (b : Byte) : (s.setReg x b).run = s.run := rfl
@[simp] theorem State.setReg_awaitReg (x : RegIx) (b : Byte) : (s.setReg x b).awaitReg = s.awaitReg := rfl
@[simp] theorem State.setReg_fault (x : RegIx) (b : Byte) : (s.setReg x b).fault = s.fault := rfl
@[simp] theorem State.setReg_cfg (x : RegIx) (b : Byte) : (s.setReg x b).cfg = s.cfg := rfl
@[simp] theorem State.setReg_events (x : RegIx) (b : Byte) : (s.setReg x b).events = s.events := rfl
@[simp] theorem State.setReg_draws (x : RegIx) (b : Byte) : (s.setReg x b).draws = s.draws := rfl

/-! ### setI -/

@[simp] theorem State.setI_mem (a : Addr) : (s.setI a).mem = s.mem := rfl
@[simp] theorem State.setI_v (a : Addr) : (s.setI a).v = s.v := rfl
@[simp] theorem State.setI_i (a : Addr) : (s.setI a).i = a := rfl
@[simp] theorem State.setI_pc (a : Addr) : (s.setI a).pc = s.pc := rfl
@[simp] theorem State.setI_stack (a : Addr) : (s.setI a).stack = s.stack := rfl
@[simp] theorem State.setI_dt (a : Addr) : (s.setI a).dt = s.dt := rfl
@[simp] theorem State.setI_st (a : Addr) : (s.setI a).st = s.st := rfl
@[simp] theorem State.setI_key (a : Addr) : (s.setI a).key = s.key := rfl
@[simp] theorem State.setI_fb (a : Addr) : (s.setI a).fb = s.fb := rfl
@[simp] theorem State.setI_run (a : Addr) : (s.setI a).run = s.run := rfl
@[simp] theorem State.setI_awaitReg (a : Addr) : (s.setI a).awaitReg = s.awaitReg := rfl
@[simp] theorem State.setI_fault (a : Addr) : (s.setI a).fault = s.fault := rfl
@[simp] theorem State.setI_cfg (a : Addr) : (s.setI a).cfg = s.cfg := rfl
@[simp] theorem State.setI_events (a : Addr) : (s.setI a).events = s.events := rfl
@[simp] theorem State.setI_draws (a : Addr) : (s.setI a).draws = s.draws := rfl

/-! ### setDT -/

@[simp] theorem State.setDT_mem (b : Byte) : (s.setDT b).mem = s.mem := rfl
@[simp] theorem State.setDT_v (b : Byte) : (s.setDT b).v = s.v := rfl
@[simp] theorem State.setDT_i (b : Byte) : (s.setDT b).i = s.i := rfl
@[simp] theorem State.setDT_pc (b : Byte) : (s.setDT b).pc = s.pc := rfl
@[simp] theorem State.setDT_stack (b : Byte) : (s.setDT b).stack = s.stack := rfl
@[simp] theorem State.setDT_dt (b : Byte) : (s.setDT b).dt = b := rfl
@[simp] theorem State.setDT_st (b : Byte) : (s.setDT b).st = s.st := rfl
@[simp] theorem State.setDT_key (b : Byte) : (s.setDT b).key = s.key := rfl
@[simp] theorem State.setDT_fb (b : Byte) : (s.setDT b).fb = s.fb := rfl
@[simp] theorem State.setDT_run (b : Byte) : (s.setDT b).run = s.run := rfl
@[simp] theorem State.setDT_awaitReg (b : Byte) : (s.setDT b).awaitReg = s.awaitReg := rfl
@[simp] theorem State.setDT_fault (b : Byte) : (s.setDT b).fault = s.fault := rfl
@[simp] theorem State.setDT_cfg (b : Byte) : (s.setDT b).cfg = s.cfg := rfl
@[simp] theorem State.setDT_events (b : Byte) : (s.setDT b).events = s.events := rfl
@[simp] theorem State.setDT_draws (b : Byte) : (s.setDT b).draws = s.draws := rfl

/-! ### setST -/

@[simp] theorem State.setST_mem (b : Byte) : (s.setST b).mem = s.mem := rfl
@[simp] theorem State.setST_v (b : Byte) : (s.setST b).v = s.v := rfl
@[simp] theorem State.setST_i (b : Byte) : (s.setST b).i = s.i := rfl
@[simp] theorem State.setST_pc (b : Byte) : (s.setST b).pc = s.pc := rfl
@[simp] theorem State.setST_stack (b : Byte) : (s.setST b).stack = s.stack := rfl
@[simp] theorem State.setST_dt (b : Byte) : (s.setST b).dt = s.dt := rfl
@[simp] theorem State.setST_st (b : Byte) : (s.setST b).st = b := rfl
@[simp] theorem State.setST_key (b : Byte) : (s.setST b).key = s.key := rfl
@[simp] theorem State.setST_fb (b : Byte) : (s.setST b).fb = s.fb := rfl
@[simp] theorem State.setST_run (b : Byte) : (s.setST b).run = s.run := rfl
@[simp] theorem State.setST_awaitReg (b : Byte) : (s.setST b).awaitReg = s.awaitReg := rfl
@[simp] theorem State.setST_fault (b : Byte) : (s.setST b).fault = s.fault := rfl
@[simp] theorem State.setST_cfg (b : Byte) : (s.setST b).cfg = s.cfg := rfl
@[simp] theorem State.setST_events (b : Byte) : (s.setST b).events = s.events := rfl
@[simp] theorem State.setST_draws (b : Byte) : (s.setST b).draws = s.draws := rfl

/-! ### setPc -/

@[simp] theorem State.setPc_mem (t : Addr) : (s.setPc t).mem = s.mem := rfl
@[simp] theorem State.setPc_v (t : Addr) : (s.setPc t).v = s.v := rfl
@[simp] theorem State.setPc_i (t : Addr) : (s.setPc t).i = s.i := rfl
@[simp] theorem State.setPc_pc (t : Addr) : (s.setPc t).pc = t := rfl
@[simp] theorem State.setPc_stack (t : Addr) : (s.setPc t).stack = s.stack := rfl
@[simp] theorem State.setPc_dt (t : Addr) : (s.setPc t).dt = s.dt := rfl
@[simp] theorem State.setPc_st (t : Addr) : (s.setPc t).st = s.st := rfl
@[simp] theorem State.setPc_key (t : Addr) : (s.setPc t).key = s.key := rfl
@[simp] theorem State.setPc_fb (t : Addr) : (s.setPc t).fb = s.fb := rfl
@[simp] theorem State.setPc_run (t : Addr) : (s.setPc t).run = s.run := rfl
@[simp] theorem State.setPc_awaitReg (t : Addr) : (s.setPc t).awaitReg = s.awaitReg := rfl
@[simp] theorem State.setPc_fault (t : Addr) : (s.setPc t).fault = s.fault := rfl
@[simp] theorem State.setPc_cfg (t : Addr) : (s.setPc t).cfg = s.cfg := rfl
@[simp] theorem State.setPc_events (t : Addr) : (s.setPc t).events = s.events := rfl
@[simp] theorem State.setPc_draws (t : Addr) : (s.setPc t).draws = s.draws := rfl

/-! ### setStack -/

@[simp] theorem State.setStack_mem (l : List Addr) : (s.setStack l).mem = s.mem := rfl
@[simp] theorem State.setStack_v (l : List Addr) : (s.setStack l).v = s.v := rfl
@[simp] theorem State.setStack_i (l : List Addr) : (s.setStack l).i = s.i := rfl
@[simp] theorem State.setStack_pc (l : List Addr) : (s.setStack l).pc = s.pc := rfl
@[simp] theorem State.setStack_stack (l : List Addr) : (s.setStack l).stack = l := rfl
@[simp] theorem State.setStack_dt (l : List Addr) : (s.setStack l).dt = s.dt := rfl
@[simp] theorem State.setStack_st (l : List Addr) : (s.setStack l).st = s.st := rfl
@[simp] theorem State.setStack_key (l : List Addr) : (s.setStack l).key = s.key := rfl
@[simp] theorem State.setStack_fb (l : List Addr) : (s.setStack l).fb = s.fb := rfl
@[simp] theorem State.setStack_run (l : List Addr) : (s.setStack l).run = s.run := rfl
@[simp] theorem State.setStack_awaitReg (l : List Addr) : (s.setStack l).awaitReg = s.awaitReg := rfl
@[simp] theorem State.setStack_fault (l : List Addr) : (s.setStack l).fault = s.fault := rfl
@[simp] theorem State.setStack_cfg (l : List Addr) : (s.setStack l).cfg = s.cfg := rfl
@[simp] theorem State.setStack_events (l : List Addr) : (s.setStack l).events = s.events := rfl
@[simp] theorem State.setStack_draws (l : List Addr) : (s.setStack l).draws = s.draws := rfl

/-! ### push -/

@[simp] theorem State.push_mem (a : Addr) : (s.push a).mem = s.mem := rfl
@[simp] theorem State.push_v (a : Addr) : (s.push a).v = s.v := rfl
@[simp] theorem State.push_i (a : Addr) : (s.push a).i = s.i := rfl
@[simp] theorem State.push_pc (a : Addr) : (s.push a).pc = s.pc := rfl
@[simp] theorem State.push_stack (a : Addr) : (s.push a).stack = a :: s.stack := rfl
@[simp] theorem State.push_dt (a : Addr) : (s.push a).dt = s.dt := rfl
@[simp] theorem State.push_st (a : Addr) : (s.push a).st = s.st := rfl
@[simp] theorem State.push_key (a : Addr) : (s.push a).key = s.key := rfl
@[simp] theorem State.push_fb (a : Addr) : (s.push a).fb = s.fb := rfl
@[simp] theorem State.push_run (a : Addr) : (s.push a).run = s.run := rfl
@[simp] theorem State.push_awaitReg (a : Addr) : (s.push a).awaitReg = s.awaitReg := rfl
@[simp] theorem State.push_fault (a : Addr) : (s.push a).fault = s.fault := rfl
@[simp] theorem State.push_cfg (a : Addr) : (s.push a).cfg = s.cfg := rfl
@[simp] theorem State.push_events (a : Addr) : (s.push a).events = s.events := rfl
@[simp] theorem State.push_draws (a : Addr) : (s.push a).draws = s.draws := rfl

/-! ### setFB -/

@[simp] theorem State.setFB_mem (f : FrameBuffer) : (s.setFB f).mem = s.mem := rfl
@[simp] theorem State.setFB_v (f : FrameBuffer) : (s.setFB f).v = s.v := rfl
@[simp] theorem State.setFB_i (f : FrameBuffer) : (s.setFB f).i = s.i := rfl
@[simp] theorem State.setFB_pc (f : FrameBuffer) : (s.setFB f).pc = s.pc := rfl
@[simp] theorem State.setFB_stack (f : FrameBuffer) : (s.setFB f).stack = s.stack := rfl
@[simp] theorem State.setFB_dt (f : FrameBuffer) : (s.setFB f).dt = s.dt := rfl
@[simp] theorem State.setFB_st (f : FrameBuffer) : (s.setFB f).st = s.st := rfl
@[simp] theorem State.setFB_key (f : FrameBuffer) : (s.setFB f).key = s.key := rfl
@[simp] theorem State.setFB_fb (f : FrameBuffer) : (s.setFB f).fb = f := rfl
@[simp] theorem State.setFB_run (f : FrameBuffer) : (s.setFB f).run = s.run := rfl
@[simp] theorem State.setFB_awaitReg (f : FrameBuffer) : (s.setFB f).awaitReg = s.awaitReg := rfl
@[simp] theorem State.setFB_fault (f : FrameBuffer) : (s.setFB f).fault = s.fault := rfl
@[simp] theorem State.setFB_cfg (f : FrameBuffer) : (s.setFB f).cfg = s.cfg := rfl
@[simp] theorem State.setFB_events (f : FrameBuffer) : (s.setFB f).events = s.events := rfl
@[simp] theorem State.setFB_draws (f : FrameBuffer) : (s.setFB f).draws = s.draws := rfl

/-! ### setKeyDown -/

@[simp] theorem State.setKeyDown_mem (k : KeyIx) (p : Bool) : (s.setKeyDown k p).mem = s.mem := rfl
@[simp] theorem State.setKeyDown_v (k : KeyIx) (p : Bool) : (s.setKeyDown k p).v = s.v := rfl
@[simp] theorem State.setKeyDown_i (k : KeyIx) (p : Bool) : (s.setKeyDown k p).i = s.i := rfl
@[simp] theorem State.setKeyDown_pc (k : KeyIx) (p : Bool) : (s.setKeyDown k p).pc = s.pc := rfl
@[simp] theorem State.setKeyDown_stack (k : KeyIx) (p : Bool) : (s.setKeyDown k p).stack = s.stack := rfl
@[simp] theorem State.setKeyDown_dt (k : KeyIx) (p : Bool) : (s.setKeyDown k p).dt = s.dt := rfl
@[simp] theorem State.setKeyDown_st (k : KeyIx) (p : Bool) : (s.setKeyDown k p).st = s.st := rfl
@[simp] theorem State.setKeyDown_key (k : KeyIx) (p : Bool) : (s.setKeyDown k p).key = s.key.set k.toNat p k.isLt := rfl
@[simp] theorem State.setKeyDown_fb (k : KeyIx) (p : Bool) : (s.setKeyDown k p).fb = s.fb := rfl
@[simp] theorem State.setKeyDown_run (k : KeyIx) (p : Bool) : (s.setKeyDown k p).run = s.run := rfl
@[simp] theorem State.setKeyDown_awaitReg (k : KeyIx) (p : Bool) : (s.setKeyDown k p).awaitReg = s.awaitReg := rfl
@[simp] theorem State.setKeyDown_fault (k : KeyIx) (p : Bool) : (s.setKeyDown k p).fault = s.fault := rfl
@[simp] theorem State.setKeyDown_cfg (k : KeyIx) (p : Bool) : (s.setKeyDown k p).cfg = s.cfg := rfl
@[simp] theorem State.setKeyDown_events (k : KeyIx) (p : Bool) : (s.setKeyDown k p).events = s.events := rfl
@[simp] theorem State.setKeyDown_draws (k : KeyIx) (p : Bool) : (s.setKeyDown k p).draws = s.draws := rfl

/-! ### raiseFatal -/

@[simp] theorem State.raiseFatal_mem (k : FaultKind) : (s.raiseFatal k).mem = s.mem := rfl
@[simp] theorem State.raiseFatal_v (k : FaultKind) : (s.raiseFatal k).v = s.v := rfl
@[simp] theorem State.raiseFatal_i (k : FaultKind) : (s.raiseFatal k).i = s.i := rfl
@[simp] theorem State.raiseFatal_pc (k : FaultKind) : (s.raiseFatal k).pc = s.pc := rfl
@[simp] theorem State.raiseFatal_stack (k : FaultKind) : (s.raiseFatal k).stack = s.stack := rfl
@[simp] theorem State.raiseFatal_dt (k : FaultKind) : (s.raiseFatal k).dt = s.dt := rfl
@[simp] theorem State.raiseFatal_st (k : FaultKind) : (s.raiseFatal k).st = s.st := rfl
@[simp] theorem State.raiseFatal_key (k : FaultKind) : (s.raiseFatal k).key = s.key := rfl
@[simp] theorem State.raiseFatal_fb (k : FaultKind) : (s.raiseFatal k).fb = s.fb := rfl
@[simp] theorem State.raiseFatal_run (k : FaultKind) : (s.raiseFatal k).run = .faulted := rfl
@[simp] theorem State.raiseFatal_awaitReg (k : FaultKind) : (s.raiseFatal k).awaitReg = s.awaitReg := rfl
@[simp] theorem State.raiseFatal_fault (k : FaultKind) : (s.raiseFatal k).fault = some k := rfl
@[simp] theorem State.raiseFatal_cfg (k : FaultKind) : (s.raiseFatal k).cfg = s.cfg := rfl
@[simp] theorem State.raiseFatal_events (k : FaultKind) : (s.raiseFatal k).events = s.events := rfl
@[simp] theorem State.raiseFatal_draws (k : FaultKind) : (s.raiseFatal k).draws = s.draws := rfl

/-! ### startWait -/

@[simp] theorem State.startWait_mem (r : RegIx) : (s.startWait r).mem = s.mem := rfl
@[simp] theorem State.startWait_v (r : RegIx) : (s.startWait r).v = s.v := rfl
@[simp] theorem State.startWait_i (r : RegIx) : (s.startWait r).i = s.i := rfl
@[simp] theorem State.startWait_pc (r : RegIx) : (s.startWait r).pc = s.pc := rfl
@[simp] theorem State.startWait_stack (r : RegIx) : (s.startWait r).stack = s.stack := rfl
@[simp] theorem State.startWait_dt (r : RegIx) : (s.startWait r).dt = s.dt := rfl
@[simp] theorem State.startWait_st (r : RegIx) : (s.startWait r).st = s.st := rfl
@[simp] theorem State.startWait_key (r : RegIx) : (s.startWait r).key = s.key := rfl
@[simp] theorem State.startWait_fb (r : RegIx) : (s.startWait r).fb = s.fb := rfl
@[simp] theorem State.startWait_run (r : RegIx) : (s.startWait r).run = .awaitingKey := rfl
@[simp] theorem State.startWait_awaitReg (r : RegIx) : (s.startWait r).awaitReg = r := rfl
@[simp] theorem State.startWait_fault (r : RegIx) : (s.startWait r).fault = s.fault := rfl
@[simp] theorem State.startWait_cfg (r : RegIx) : (s.startWait r).cfg = s.cfg := rfl
@[simp] theorem State.startWait_events (r : RegIx) : (s.startWait r).events = s.events := rfl
@[simp] theorem State.startWait_draws (r : RegIx) : (s.startWait r).draws = s.draws := rfl

/-! ### resume -/

@[simp] theorem State.resume_mem : s.resume.mem = s.mem := rfl
@[simp] theorem State.resume_v : s.resume.v = s.v := rfl
@[simp] theorem State.resume_i : s.resume.i = s.i := rfl
@[simp] theorem State.resume_pc : s.resume.pc = s.pc := rfl
@[simp] theorem State.resume_stack : s.resume.stack = s.stack := rfl
@[simp] theorem State.resume_dt : s.resume.dt = s.dt := rfl
@[simp] theorem State.resume_st : s.resume.st = s.st := rfl
@[simp] theorem State.resume_key : s.resume.key = s.key := rfl
@[simp] theorem State.resume_fb : s.resume.fb = s.fb := rfl
@[simp] theorem State.resume_run : s.resume.run = .running := rfl
@[simp] theorem State.resume_awaitReg : s.resume.awaitReg = s.awaitReg := rfl
@[simp] theorem State.resume_fault : s.resume.fault = s.fault := rfl
@[simp] theorem State.resume_cfg : s.resume.cfg = s.cfg := rfl
@[simp] theorem State.resume_events : s.resume.events = s.events := rfl
@[simp] theorem State.resume_draws : s.resume.draws = s.draws := rfl

/-! ### consumeDraw -/

@[simp] theorem State.consumeDraw_mem : s.consumeDraw.mem = s.mem := rfl
@[simp] theorem State.consumeDraw_v : s.consumeDraw.v = s.v := rfl
@[simp] theorem State.consumeDraw_i : s.consumeDraw.i = s.i := rfl
@[simp] theorem State.consumeDraw_pc : s.consumeDraw.pc = s.pc := rfl
@[simp] theorem State.consumeDraw_stack : s.consumeDraw.stack = s.stack := rfl
@[simp] theorem State.consumeDraw_dt : s.consumeDraw.dt = s.dt := rfl
@[simp] theorem State.consumeDraw_st : s.consumeDraw.st = s.st := rfl
@[simp] theorem State.consumeDraw_key : s.consumeDraw.key = s.key := rfl
@[simp] theorem State.consumeDraw_fb : s.consumeDraw.fb = s.fb := rfl
@[simp] theorem State.consumeDraw_run : s.consumeDraw.run = s.run := rfl
@[simp] theorem State.consumeDraw_awaitReg : s.consumeDraw.awaitReg = s.awaitReg := rfl
@[simp] theorem State.consumeDraw_fault : s.consumeDraw.fault = s.fault := rfl
@[simp] theorem State.consumeDraw_cfg : s.consumeDraw.cfg = s.cfg := rfl
@[simp] theorem State.consumeDraw_events : s.consumeDraw.events = s.events := rfl
@[simp] theorem State.consumeDraw_draws : s.consumeDraw.draws = s.draws + 1 := rfl

/-! ### tick -/

@[simp] theorem State.tick_mem : s.tick.mem = s.mem := rfl
@[simp] theorem State.tick_v : s.tick.v = s.v := rfl
@[simp] theorem State.tick_i : s.tick.i = s.i := rfl
@[simp] theorem State.tick_pc : s.tick.pc = s.pc := rfl
@[simp] theorem State.tick_stack : s.tick.stack = s.stack := rfl
@[simp] theorem State.tick_dt : s.tick.dt = countDown s.dt := rfl
@[simp] theorem State.tick_st : s.tick.st = countDown s.st := rfl
@[simp] theorem State.tick_key : s.tick.key = s.key := rfl
@[simp] theorem State.tick_fb : s.tick.fb = s.fb := rfl
@[simp] theorem State.tick_run : s.tick.run = s.run := rfl
@[simp] theorem State.tick_awaitReg : s.tick.awaitReg = s.awaitReg := rfl
@[simp] theorem State.tick_fault : s.tick.fault = s.fault := rfl
@[simp] theorem State.tick_cfg : s.tick.cfg = s.cfg := rfl
@[simp] theorem State.tick_events : s.tick.events = s.events := rfl
@[simp] theorem State.tick_draws : s.tick.draws = s.draws := rfl

/-! ### popEvent -/

@[simp] theorem State.popEvent_mem : s.popEvent.mem = s.mem := rfl
@[simp] theorem State.popEvent_v : s.popEvent.v = s.v := rfl
@[simp] theorem State.popEvent_i : s.popEvent.i = s.i := rfl
@[simp] theorem State.popEvent_pc : s.popEvent.pc = s.pc := rfl
@[simp] theorem State.popEvent_stack : s.popEvent.stack = s.stack := rfl
@[simp] theorem State.popEvent_dt : s.popEvent.dt = s.dt := rfl
@[simp] theorem State.popEvent_st : s.popEvent.st = s.st := rfl
@[simp] theorem State.popEvent_key : s.popEvent.key = s.key := rfl
@[simp] theorem State.popEvent_fb : s.popEvent.fb = s.fb := rfl
@[simp] theorem State.popEvent_run : s.popEvent.run = s.run := rfl
@[simp] theorem State.popEvent_awaitReg : s.popEvent.awaitReg = s.awaitReg := rfl
@[simp] theorem State.popEvent_fault : s.popEvent.fault = s.fault := rfl
@[simp] theorem State.popEvent_cfg : s.popEvent.cfg = s.cfg := rfl
@[simp] theorem State.popEvent_events : s.popEvent.events = s.events.tail := rfl
@[simp] theorem State.popEvent_draws : s.popEvent.draws = s.draws := rfl

/-! ### writeResultThenFlag -/

@[simp] theorem State.writeResultThenFlag_mem (x : RegIx) (a b : Byte) : (s.writeResultThenFlag x a b).mem = s.mem := rfl
@[simp] theorem State.writeResultThenFlag_i (x : RegIx) (a b : Byte) : (s.writeResultThenFlag x a b).i = s.i := rfl
@[simp] theorem State.writeResultThenFlag_pc (x : RegIx) (a b : Byte) : (s.writeResultThenFlag x a b).pc = s.pc := rfl
@[simp] theorem State.writeResultThenFlag_stack (x : RegIx) (a b : Byte) : (s.writeResultThenFlag x a b).stack = s.stack := rfl
@[simp] theorem State.writeResultThenFlag_dt (x : RegIx) (a b : Byte) : (s.writeResultThenFlag x a b).dt = s.dt := rfl
@[simp] theorem State.writeResultThenFlag_st (x : RegIx) (a b : Byte) : (s.writeResultThenFlag x a b).st = s.st := rfl
@[simp] theorem State.writeResultThenFlag_key (x : RegIx) (a b : Byte) : (s.writeResultThenFlag x a b).key = s.key := rfl
@[simp] theorem State.writeResultThenFlag_fb (x : RegIx) (a b : Byte) : (s.writeResultThenFlag x a b).fb = s.fb := rfl
@[simp] theorem State.writeResultThenFlag_run (x : RegIx) (a b : Byte) : (s.writeResultThenFlag x a b).run = s.run := rfl
@[simp] theorem State.writeResultThenFlag_awaitReg (x : RegIx) (a b : Byte) : (s.writeResultThenFlag x a b).awaitReg = s.awaitReg := rfl
@[simp] theorem State.writeResultThenFlag_fault (x : RegIx) (a b : Byte) : (s.writeResultThenFlag x a b).fault = s.fault := rfl
@[simp] theorem State.writeResultThenFlag_cfg (x : RegIx) (a b : Byte) : (s.writeResultThenFlag x a b).cfg = s.cfg := rfl
@[simp] theorem State.writeResultThenFlag_events (x : RegIx) (a b : Byte) : (s.writeResultThenFlag x a b).events = s.events := rfl
@[simp] theorem State.writeResultThenFlag_draws (x : RegIx) (a b : Byte) : (s.writeResultThenFlag x a b).draws = s.draws := rfl

end Sys2Proof.Machine
end

