-- ==== Sys2Proof/Laws/Ops.lean ====
section
/-!
SUPPORT. What each shared operation does, said once: reads after writes, the outcomes, the dump and the
restore, and that every instruction and every event answers a next state.
-/

namespace Sys2Proof.Machine

variable (s : State)

/-! ### Reads after writes -/

theorem State.reg_setReg (x r : RegIx) (b : Byte) :
    (s.setReg x b).reg r = if r = x then b else s.reg r := by
  unfold State.reg State.setReg
  simp only [Vector.getElem_set, BitVec.toNat_inj, eq_comm]

@[simp] theorem State.reg_setReg_same (x : RegIx) (b : Byte) : (s.setReg x b).reg x = b := by
  simp [State.reg_setReg]

theorem State.reg_setReg_ne {x r : RegIx} (b : Byte) (h : r ≠ x) :
    (s.setReg x b).reg r = s.reg r := by simp [State.reg_setReg, h]

/-- After a result and a flag: VF holds the flag, `V[x]` the result unless `x = F`. -/
theorem State.reg_writeResultThenFlag (x r : RegIx) (a b : Byte) :
    (s.writeResultThenFlag x a b).reg r = if r = VF then b else if r = x then a else s.reg r := by
  simp [State.writeResultThenFlag, State.reg_setReg]

theorem State.memRead_memWrite (a k : Addr) (b : Byte) :
    (s.memWrite a b).memRead k = if k = a then b else s.memRead k := by
  simp [State.memRead, State.memWrite, Memory.read_write, BitVec.toNat_inj]

theorem State.keyDown_setKeyDown (k j : KeyIx) (p : Bool) :
    (s.setKeyDown k p).keyDown j = if j = k then p else s.keyDown j := by
  unfold State.keyDown State.setKeyDown
  simp only [Vector.getElem_set, BitVec.toNat_inj, eq_comm]

theorem fbRead_fbWrite (fb : FrameBuffer) (b k : Nat) (v : Byte) (hb : b < 256) :
    fbRead (fbWrite fb b v) k = if k = b then v else fbRead fb k := by
  unfold fbRead fbWrite
  by_cases h : k = b
  · subst h; simp [hb]
  · simp only [Vector.getElem?_setIfInBounds, if_neg (Ne.symm h), if_neg h]

@[simp] theorem fbRead_blank (b : Nat) : fbRead (Vector.replicate 256 0x00) b = 0x00 := by
  unfold fbRead
  by_cases h : b < 256 <;> simp [h]

/-! Registers are read through `v`, memory through `mem` and `cfg`, keys through `key`: a write to any
other field leaves those reads alone. -/

section Reads

variable (r : RegIx) (a : Addr) (k : KeyIx)

@[simp] theorem State.reg_memWrite (c : Addr) (b : Byte) : (s.memWrite c b).reg r = s.reg r := rfl
@[simp] theorem State.reg_setI (c : Addr) : (s.setI c).reg r = s.reg r := rfl
@[simp] theorem State.reg_setDT (b : Byte) : (s.setDT b).reg r = s.reg r := rfl
@[simp] theorem State.reg_setST (b : Byte) : (s.setST b).reg r = s.reg r := rfl
@[simp] theorem State.reg_setPc (c : Addr) : (s.setPc c).reg r = s.reg r := rfl
@[simp] theorem State.reg_setStack (l : List Addr) : (s.setStack l).reg r = s.reg r := rfl
@[simp] theorem State.reg_push (c : Addr) : (s.push c).reg r = s.reg r := rfl
@[simp] theorem State.reg_setFB (f : FrameBuffer) : (s.setFB f).reg r = s.reg r := rfl
@[simp] theorem State.reg_setKeyDown (j : KeyIx) (p : Bool) : (s.setKeyDown j p).reg r = s.reg r := rfl
@[simp] theorem State.reg_raiseFatal (f : FaultKind) : (s.raiseFatal f).reg r = s.reg r := rfl
@[simp] theorem State.reg_startWait (q : RegIx) : (s.startWait q).reg r = s.reg r := rfl
@[simp] theorem State.reg_resume : s.resume.reg r = s.reg r := rfl
@[simp] theorem State.reg_consumeDraw : s.consumeDraw.reg r = s.reg r := rfl
@[simp] theorem State.reg_tick : s.tick.reg r = s.reg r := rfl
@[simp] theorem State.reg_popEvent : s.popEvent.reg r = s.reg r := rfl

@[simp] theorem State.memRead_setReg (x : RegIx) (b : Byte) : (s.setReg x b).memRead a = s.memRead a := rfl
@[simp] theorem State.memRead_writeResultThenFlag (x : RegIx) (b c : Byte) :
    (s.writeResultThenFlag x b c).memRead a = s.memRead a := rfl
@[simp] theorem State.memRead_setI (c : Addr) : (s.setI c).memRead a = s.memRead a := rfl
@[simp] theorem State.memRead_setDT (b : Byte) : (s.setDT b).memRead a = s.memRead a := rfl
@[simp] theorem State.memRead_setST (b : Byte) : (s.setST b).memRead a = s.memRead a := rfl
@[simp] theorem State.memRead_setPc (c : Addr) : (s.setPc c).memRead a = s.memRead a := rfl
@[simp] theorem State.memRead_setStack (l : List Addr) : (s.setStack l).memRead a = s.memRead a := rfl
@[simp] theorem State.memRead_push (c : Addr) : (s.push c).memRead a = s.memRead a := rfl
@[simp] theorem State.memRead_setFB (f : FrameBuffer) : (s.setFB f).memRead a = s.memRead a := rfl
@[simp] theorem State.memRead_setKeyDown (j : KeyIx) (p : Bool) :
    (s.setKeyDown j p).memRead a = s.memRead a := rfl
@[simp] theorem State.memRead_raiseFatal (f : FaultKind) : (s.raiseFatal f).memRead a = s.memRead a := rfl
@[simp] theorem State.memRead_startWait (q : RegIx) : (s.startWait q).memRead a = s.memRead a := rfl
@[simp] theorem State.memRead_resume : s.resume.memRead a = s.memRead a := rfl
@[simp] theorem State.memRead_consumeDraw : s.consumeDraw.memRead a = s.memRead a := rfl
@[simp] theorem State.memRead_tick : s.tick.memRead a = s.memRead a := rfl
@[simp] theorem State.memRead_popEvent : s.popEvent.memRead a = s.memRead a := rfl

@[simp] theorem State.keyDown_memWrite (c : Addr) (b : Byte) : (s.memWrite c b).keyDown k = s.keyDown k := rfl
@[simp] theorem State.keyDown_setReg (x : RegIx) (b : Byte) : (s.setReg x b).keyDown k = s.keyDown k := rfl
@[simp] theorem State.keyDown_writeResultThenFlag (x : RegIx) (b c : Byte) :
    (s.writeResultThenFlag x b c).keyDown k = s.keyDown k := rfl
@[simp] theorem State.keyDown_setI (c : Addr) : (s.setI c).keyDown k = s.keyDown k := rfl
@[simp] theorem State.keyDown_setDT (b : Byte) : (s.setDT b).keyDown k = s.keyDown k := rfl
@[simp] theorem State.keyDown_setST (b : Byte) : (s.setST b).keyDown k = s.keyDown k := rfl
@[simp] theorem State.keyDown_setPc (c : Addr) : (s.setPc c).keyDown k = s.keyDown k := rfl
@[simp] theorem State.keyDown_setStack (l : List Addr) : (s.setStack l).keyDown k = s.keyDown k := rfl
@[simp] theorem State.keyDown_push (c : Addr) : (s.push c).keyDown k = s.keyDown k := rfl
@[simp] theorem State.keyDown_setFB (f : FrameBuffer) : (s.setFB f).keyDown k = s.keyDown k := rfl
@[simp] theorem State.keyDown_raiseFatal (f : FaultKind) : (s.raiseFatal f).keyDown k = s.keyDown k := rfl
@[simp] theorem State.keyDown_startWait (q : RegIx) : (s.startWait q).keyDown k = s.keyDown k := rfl
@[simp] theorem State.keyDown_resume : s.resume.keyDown k = s.keyDown k := rfl
@[simp] theorem State.keyDown_consumeDraw : s.consumeDraw.keyDown k = s.keyDown k := rfl
@[simp] theorem State.keyDown_tick : s.tick.keyDown k = s.keyDown k := rfl
@[simp] theorem State.keyDown_popEvent : s.popEvent.keyDown k = s.keyDown k := rfl

end Reads

/-! ### Outcomes (40_engine.md R114) -/

@[simp] theorem finish_next : finish .next s = .next (s.setPc (s.pc + 2)) := rfl
@[simp] theorem finish_skip : finish .skip s = .next (s.setPc (s.pc + 4)) := rfl
@[simp] theorem finish_jump (t : Addr) : finish (.jump t) s = .next (s.setPc t) := rfl
@[simp] theorem finish_wait (r : RegIx) : finish (.wait r) s = .next (s.startWait r) := rfl
@[simp] theorem finish_fatal (k : FaultKind) : finish (.fatal k) s = .next (s.raiseFatal k) := rfl

/-- A conditional skip moves `pc` by 4 or by 2 and does nothing else. -/
theorem finish_skipIf (c : Bool) :
    finish (skipIf c) s = .next (s.setPc (if c then s.pc + 4 else s.pc + 2)) := by
  cases c <;> rfl

/-- A checked jump goes to an aligned target, or stops with MisalignedPc and no other change. -/
theorem jumpChecked_eq (t : Addr) :
    jumpChecked t s = .next (if s.misaligned t then s.raiseFatal .misalignedPc else s.setPc t) := by
  unfold jumpChecked; split <;> simp_all

/-- A push faults iff `STACK_DEPTH` is finite and the stack holds that many entries (10_state.md R29). -/
theorem State.stackFull_iff : s.stackFull = true ↔ s.cfg.stackDepth = some s.stack.length := by
  unfold State.stackFull
  cases s.cfg.stackDepth with
  | none => simp
  | some d => simp only [beq_iff_eq, Option.some.injEq]; exact eq_comm

/-- A transfer faults iff the check is on and the target is odd (10_state.md R23). -/
theorem State.misaligned_iff (t : Addr) :
    s.misaligned t = true ↔ s.cfg.enforceEvenPc = true ∧ t.toNat % 2 = 1 := by
  simp [State.misaligned]

/-- An image is accepted iff it has 1 to 3584 bytes (70_reset_and_hazards.md R283). -/
theorem imageAccepted_iff (image : List Byte) :
    imageAccepted image = true ↔ 1 ≤ image.length ∧ image.length ≤ 3584 := by
  rw [show (3584 : Nat) = maxImage from rfl]; exact decide_eq_true_iff

/-! ### Dump and restore (46_control_family.md R228, R229) -/

/-- The dump changes no field but `mem`. -/
theorem State.dumpRegs_eq (n : Nat) : s.dumpRegs n = { s with mem := (s.dumpRegs n).mem } := by
  induction n with
  | zero => rfl
  | succ k ih => simp only [State.dumpRegs]; rw [ih]; rfl

/-- The restore changes no field but `v`. -/
theorem State.restoreRegs_eq (n : Nat) : s.restoreRegs n = { s with v := (s.restoreRegs n).v } := by
  induction n with
  | zero => rfl
  | succ k ih => simp only [State.restoreRegs]; rw [ih]; rfl

/-- A register after the restore of the first `n` registers (`n ≤ 16`). -/
theorem State.reg_restoreRegs (n : Nat) (hn : n ≤ 16) (r : RegIx) :
    (s.restoreRegs n).reg r = if r.toNat < n then s.memRead (s.indexed r.toNat) else s.reg r := by
  induction n with
  | zero => simp [State.restoreRegs]
  | succ k ih =>
    have hk : (BitVec.ofNat 4 k).toNat = k := by simp; omega
    simp only [State.restoreRegs, State.reg_setReg, ih (by omega)]
    by_cases h : r = BitVec.ofNat 4 k
    · subst h; simp [hk]
    · have hne : r.toNat ≠ k := fun he => h (BitVec.eq_of_toNat_eq (by rw [hk, he]))
      rw [if_neg h]
      congr 1
      apply propext; omega

/-- A byte after the dump of the first `n` registers (`n ≤ 16`): register `k` at `I + k`, every other
byte as before. -/
theorem State.memRead_dumpRegs (n : Nat) (hn : n ≤ 16) (a : Addr) :
    (s.dumpRegs n).memRead a =
      if (a - s.i).toNat < n then s.reg (BitVec.ofNat 4 (a - s.i).toNat) else s.memRead a := by
  induction n with
  | zero => simp [State.dumpRegs]
  | succ k ih =>
    simp only [State.dumpRegs, State.memRead_memWrite, ih (by omega), State.indexed]
    by_cases h : a = s.i + BitVec.ofNat 12 k
    · have hd : (a - s.i).toNat = k := by
        subst h
        have h1 : s.i + BitVec.ofNat 12 k - s.i = BitVec.ofNat 12 k := by
          rw [BitVec.add_comm, BitVec.add_sub_cancel]
        rw [h1, BitVec.toNat_ofNat]; omega
      rw [if_pos h, hd, if_pos (by omega)]
    · have hne : (a - s.i).toNat ≠ k := by
        intro he
        apply h
        have h1 : BitVec.ofNat 12 k = a - s.i := by rw [← he, BitVec.ofNat_toNat, BitVec.setWidth_eq]
        rw [h1, BitVec.add_comm, BitVec.sub_add_cancel]
      rw [if_neg h]
      congr 1
      apply propext; omega

/-- The dump keeps the canonical form. -/
theorem State.dumpRegs_wf (n : Nat) (h : Memory.wf s.cfg s.mem) :
    Memory.wf s.cfg (s.dumpRegs n).mem := by
  induction n with
  | zero => exact h
  | succ k ih =>
    have hc : (s.dumpRegs k).cfg = s.cfg := by rw [State.dumpRegs_eq]
    have := State.memWrite_wf (s.dumpRegs k) (s.indexed k) (s.reg (BitVec.ofNat 4 k)) (by rwa [hc])
    rwa [State.memWrite_cfg, hc] at this

/-- The BCD store keeps the canonical form. -/
theorem State.storeDigits_wf (d : Byte × Byte × Byte) (h : Memory.wf s.cfg s.mem) :
    Memory.wf s.cfg (s.storeDigits d).mem :=
  State.memWrite_wf _ _ _ (State.memWrite_wf _ _ _ (State.memWrite_wf _ _ _ h))

/-! ### Load (70_reset_and_hazards.md R280, R283) -/

theorem State.load_accepted {image : List Byte} (h : imageAccepted image = true) :
    s.load image =
      { State.reset with
        mem := loadedMemory s.cfg image, cfg := s.cfg, events := s.events, draws := s.draws } := by
  simp [State.load, h]

theorem State.load_rejected {image : List Byte} (h : imageAccepted image = false) :
    s.load image = s := by
  simp [State.load, h]

end Sys2Proof.Machine
end

