-- ==== Sys2Proof/Laws/PerInstr.lean ====
section
/-!
SUPPORT. Statements about every instruction as syntax, one lemma per constructor (LAWS.json).
MatchesRow: the encoder's word matches the instruction's row of the table of 30_encoding.md R90.
-/

namespace Sys2Proof.Laws

theorem nibble_and_ones : ∀ t : Nibble, t &&& 0xF#4 = t := by decide

/-- Format `NNN` under the mask 0xF000. -/
theorem packNNN_masked (t : Nibble) (a : Addr) : packNNN t a &&& 0xF000 = packNNN t 0#12 := by
  have h : packNNN t a &&& packNNN 0xF#4 0#12 = packNNN (t &&& 0xF#4) (a &&& 0#12) := BitVec.and_append
  rw [show (0xF000 : Word) = packNNN 0xF#4 0#12 from by decide, h, nibble_and_ones, BitVec.and_zero]

/-- Format `XYN` under a mask of whole nibbles. -/
theorem packXYN_and (t x y n t' x' y' n' : Nibble) :
    packXYN t x y n &&& packXYN t' x' y' n' = packXYN (t &&& t') (x &&& x') (y &&& y') (n &&& n') := by
  have h1 : (t ++ x) &&& (t' ++ x') = (t &&& t') ++ (x &&& x') := BitVec.and_append
  have h2 : (t ++ x ++ y) &&& (t' ++ x' ++ y') = ((t ++ x) &&& (t' ++ x')) ++ (y &&& y') :=
    BitVec.and_append
  have h3 : packXYN t x y n &&& packXYN t' x' y' n'
      = ((t ++ x ++ y) &&& (t' ++ x' ++ y')) ++ (n &&& n') := BitVec.and_append
  rw [h3, h2, h1]; rfl

/-- Formats `XY` and `XYN` where only the top nibble selects. -/
theorem packXYN_masked_top (t x y n : Nibble) : packXYN t x y n &&& 0xF000 = packXYN t 0#4 0#4 0#4 := by
  rw [show (0xF000 : Word) = packXYN 0xF#4 0#4 0#4 0#4 from by decide, packXYN_and, nibble_and_ones,
    BitVec.and_zero, BitVec.and_zero, BitVec.and_zero]

/-- Format `XY` where the top and the low nibble select. -/
theorem packXYN_masked_sub (t x y n : Nibble) : packXYN t x y n &&& 0xF00F = packXYN t 0#4 0#4 n := by
  rw [show (0xF00F : Word) = packXYN 0xF#4 0#4 0#4 0xF#4 from by decide, packXYN_and, nibble_and_ones,
    nibble_and_ones, BitVec.and_zero, BitVec.and_zero]

theorem byte_and_ones : ∀ b : Byte, b &&& 0xFF#8 = b := by decide

theorem packXKK_and (t x t' x' : Nibble) (b b' : Byte) :
    packXKK t x b &&& packXKK t' x' b' = packXKK (t &&& t') (x &&& x') (b &&& b') := by
  have h1 : (t ++ x) &&& (t' ++ x') = (t &&& t') ++ (x &&& x') := BitVec.and_append
  have h2 : packXKK t x b &&& packXKK t' x' b' = ((t ++ x) &&& (t' ++ x')) ++ (b &&& b') :=
    BitVec.and_append
  rw [h2, h1]; rfl

/-- Format `XKK`: only the top nibble selects. -/
theorem packXKK_masked_top (t x : Nibble) (b : Byte) : packXKK t x b &&& 0xF000 = packXKK t 0#4 0#8 := by
  rw [show (0xF000 : Word) = packXKK 0xF#4 0#4 0#8 from by decide, packXKK_and, nibble_and_ones,
    BitVec.and_zero, BitVec.and_zero]

/-- Format `XS`: the top nibble and the low byte select. -/
theorem packXKK_masked_sub (t x : Nibble) (b : Byte) : packXKK t x b &&& 0xF0FF = packXKK t 0#4 b := by
  rw [show (0xF0FF : Word) = packXKK 0xF#4 0#4 0xFF#8 from by decide, packXKK_and, nibble_and_ones,
    byte_and_ones, BitVec.and_zero]

/-- `w & mask = match` for the word of `i` and the row of `i` (30_encoding.md R90). -/
def MatchesRow.Statement (i : Instr) : Prop := encode i &&& (tableRow i).2 = (tableRow i).1

theorem MatchesRow.sys (nnn : Addr) : MatchesRow.Statement (.sys nnn) :=
  (packNNN_masked _ _).trans rfl

theorem MatchesRow.cls : MatchesRow.Statement (.cls) := rfl

theorem MatchesRow.ret : MatchesRow.Statement (.ret) := rfl

theorem MatchesRow.jp (nnn : Addr) : MatchesRow.Statement (.jp nnn) :=
  (packNNN_masked _ _).trans rfl

theorem MatchesRow.call (nnn : Addr) : MatchesRow.Statement (.call nnn) :=
  (packNNN_masked _ _).trans rfl

theorem MatchesRow.seImm (x : RegIx) (kk : Byte) : MatchesRow.Statement (.seImm x kk) :=
  (packXKK_masked_top _ _ _).trans rfl

theorem MatchesRow.sneImm (x : RegIx) (kk : Byte) : MatchesRow.Statement (.sneImm x kk) :=
  (packXKK_masked_top _ _ _).trans rfl

theorem MatchesRow.seReg (x : RegIx) (y : RegIx) (n : Nibble) : MatchesRow.Statement (.seReg x y n) :=
  (packXYN_masked_top _ _ _ _).trans rfl

theorem MatchesRow.ldImm (x : RegIx) (kk : Byte) : MatchesRow.Statement (.ldImm x kk) :=
  (packXKK_masked_top _ _ _).trans rfl

theorem MatchesRow.addImm (x : RegIx) (kk : Byte) : MatchesRow.Statement (.addImm x kk) :=
  (packXKK_masked_top _ _ _).trans rfl

theorem MatchesRow.mov (x : RegIx) (y : RegIx) : MatchesRow.Statement (.mov x y) :=
  (packXYN_masked_sub _ _ _ _).trans rfl

theorem MatchesRow.orReg (x : RegIx) (y : RegIx) : MatchesRow.Statement (.orReg x y) :=
  (packXYN_masked_sub _ _ _ _).trans rfl

theorem MatchesRow.andReg (x : RegIx) (y : RegIx) : MatchesRow.Statement (.andReg x y) :=
  (packXYN_masked_sub _ _ _ _).trans rfl

theorem MatchesRow.xorReg (x : RegIx) (y : RegIx) : MatchesRow.Statement (.xorReg x y) :=
  (packXYN_masked_sub _ _ _ _).trans rfl

theorem MatchesRow.addReg (x : RegIx) (y : RegIx) : MatchesRow.Statement (.addReg x y) :=
  (packXYN_masked_sub _ _ _ _).trans rfl

theorem MatchesRow.subReg (x : RegIx) (y : RegIx) : MatchesRow.Statement (.subReg x y) :=
  (packXYN_masked_sub _ _ _ _).trans rfl

theorem MatchesRow.srl (x : RegIx) (y : RegIx) : MatchesRow.Statement (.srl x y) :=
  (packXYN_masked_sub _ _ _ _).trans rfl

theorem MatchesRow.subnReg (x : RegIx) (y : RegIx) : MatchesRow.Statement (.subnReg x y) :=
  (packXYN_masked_sub _ _ _ _).trans rfl

theorem MatchesRow.sll (x : RegIx) (y : RegIx) : MatchesRow.Statement (.sll x y) :=
  (packXYN_masked_sub _ _ _ _).trans rfl

theorem MatchesRow.sneReg (x : RegIx) (y : RegIx) (n : Nibble) : MatchesRow.Statement (.sneReg x y n) :=
  (packXYN_masked_top _ _ _ _).trans rfl

theorem MatchesRow.ldI (nnn : Addr) : MatchesRow.Statement (.ldI nnn) :=
  (packNNN_masked _ _).trans rfl

theorem MatchesRow.jpV0 (nnn : Addr) : MatchesRow.Statement (.jpV0 nnn) :=
  (packNNN_masked _ _).trans rfl

theorem MatchesRow.rnd (x : RegIx) (kk : Byte) : MatchesRow.Statement (.rnd x kk) :=
  (packXKK_masked_top _ _ _).trans rfl

theorem MatchesRow.drw (x : RegIx) (y : RegIx) (n : Nibble) : MatchesRow.Statement (.drw x y n) :=
  (packXYN_masked_top _ _ _ _).trans rfl

theorem MatchesRow.skp (x : RegIx) : MatchesRow.Statement (.skp x) :=
  (packXKK_masked_sub _ _ _).trans rfl

theorem MatchesRow.sknp (x : RegIx) : MatchesRow.Statement (.sknp x) :=
  (packXKK_masked_sub _ _ _).trans rfl

theorem MatchesRow.ldVxDt (x : RegIx) : MatchesRow.Statement (.ldVxDt x) :=
  (packXKK_masked_sub _ _ _).trans rfl

theorem MatchesRow.ldVxK (x : RegIx) : MatchesRow.Statement (.ldVxK x) :=
  (packXKK_masked_sub _ _ _).trans rfl

theorem MatchesRow.ldDtVx (x : RegIx) : MatchesRow.Statement (.ldDtVx x) :=
  (packXKK_masked_sub _ _ _).trans rfl

theorem MatchesRow.ldStVx (x : RegIx) : MatchesRow.Statement (.ldStVx x) :=
  (packXKK_masked_sub _ _ _).trans rfl

theorem MatchesRow.addIVx (x : RegIx) : MatchesRow.Statement (.addIVx x) :=
  (packXKK_masked_sub _ _ _).trans rfl

theorem MatchesRow.ldFVx (x : RegIx) : MatchesRow.Statement (.ldFVx x) :=
  (packXKK_masked_sub _ _ _).trans rfl

theorem MatchesRow.ldBVx (x : RegIx) : MatchesRow.Statement (.ldBVx x) :=
  (packXKK_masked_sub _ _ _).trans rfl

theorem MatchesRow.ldMemVx (x : RegIx) : MatchesRow.Statement (.ldMemVx x) :=
  (packXKK_masked_sub _ _ _).trans rfl

theorem MatchesRow.ldVxMem (x : RegIx) : MatchesRow.Statement (.ldVxMem x) :=
  (packXKK_masked_sub _ _ _).trans rfl

end Sys2Proof.Laws
end

