-- ==== Sys2Proof/Laws/Sprite.lean ====
section
/-!
SUPPORT. What drawing one sprite row does to each framebuffer byte and to the collision note
(44_sprite_renderer.md R190 to R194).
-/

namespace Sys2Proof.Machine

theorem fbRead_xorByte (b k : Nat) (m : Byte) (p : FrameBuffer × Bool) (hb : b < 256) :
    fbRead (xorByte b m p).1 k = if k = b then fbRead p.1 b ^^^ m else fbRead p.1 k := by
  simp [xorByte, fbRead_fbWrite _ _ _ _ hb]

theorem xorByte_hit (b : Nat) (m : Byte) (p : FrameBuffer × Bool) :
    (xorByte b m p).2 = (p.2 || (fbRead p.1 b &&& m) != 0) := rfl

/-- A row below the screen is clipped (R192). -/
@[simp] theorem drawRow_clipped (b : Byte) (x0 yr : Nat) (p : FrameBuffer × Bool) (h : 32 ≤ yr) :
    drawRow b x0 yr p = p := by simp [drawRow, h]

/-- The mask a sprite byte puts on framebuffer byte `k` of a row at `yr < 32` with origin column `x0`
(R193): its high part in the origin's byte, its low part in the next one of the same row, else nothing. -/
def rowMask (b : Byte) (x0 yr k : Nat) : Byte :=
  if k = 8 * yr + x0 / 8 then spriteHigh b (x0 % 8)
  else if k = 8 * yr + x0 / 8 + 1 ∧ x0 % 8 > 0 ∧ x0 / 8 < 7 then spriteLow b (x0 % 8)
  else 0

/-- One row XORs its mask into every framebuffer byte. -/
theorem fbRead_drawRow (b : Byte) (x0 yr k : Nat) (p : FrameBuffer × Bool) (hx : x0 < 64)
    (hy : yr < 32) : fbRead (drawRow b x0 yr p).1 k = fbRead p.1 k ^^^ rowMask b x0 yr k := by
  have hb : 8 * yr + x0 / 8 < 256 := by omega
  unfold drawRow rowMask
  rw [if_neg (by omega)]
  simp only
  by_cases hc : x0 % 8 > 0 ∧ x0 / 8 < 7
  · rw [if_pos hc, fbRead_xorByte _ _ _ _ (by omega), fbRead_xorByte _ _ _ _ hb,
      fbRead_xorByte _ _ _ _ hb]
    by_cases h1 : k = 8 * yr + x0 / 8
    · subst h1; simp
    · by_cases h2 : k = 8 * yr + x0 / 8 + 1
      · subst h2; simp [hc]
      · simp [h1, h2]
  · rw [if_neg hc, fbRead_xorByte _ _ _ _ hb]
    by_cases h1 : k = 8 * yr + x0 / 8
    · subst h1; simp
    · simp [h1, hc]

/-- One row notes a collision iff its mask meets a lit bit of the row's bytes (R194). -/
theorem drawRow_hit (b : Byte) (x0 yr : Nat) (p : FrameBuffer × Bool) (hx : x0 < 64) (hy : yr < 32) :
    (drawRow b x0 yr p).2 = true ↔
      p.2 = true ∨ ∃ k, k < 256 ∧ fbRead p.1 k &&& rowMask b x0 yr k ≠ 0 := by
  have hb : 8 * yr + x0 / 8 < 256 := by omega
  have hm1 : rowMask b x0 yr (8 * yr + x0 / 8) = spriteHigh b (x0 % 8) := by simp [rowMask]
  have key : (∃ k, k < 256 ∧ fbRead p.1 k &&& rowMask b x0 yr k ≠ 0) ↔
      fbRead p.1 (8 * yr + x0 / 8) &&& spriteHigh b (x0 % 8) ≠ 0 ∨
      (x0 % 8 > 0 ∧ x0 / 8 < 7) ∧
        fbRead p.1 (8 * yr + x0 / 8 + 1) &&& spriteLow b (x0 % 8) ≠ 0 := by
    constructor
    · rintro ⟨k, -, hk⟩
      unfold rowMask at hk
      split at hk
      · subst_vars; exact .inl hk
      · split at hk
        · rename_i h; obtain ⟨rfl, h⟩ := h; exact .inr ⟨h, hk⟩
        · simp at hk
    · rintro (h | ⟨hc, h⟩)
      · exact ⟨_, hb, by rwa [hm1]⟩
      · refine ⟨8 * yr + x0 / 8 + 1, by omega, ?_⟩
        simpa [rowMask, hc] using h
  rw [key]
  unfold drawRow
  rw [if_neg (by omega)]
  simp only
  by_cases hc : x0 % 8 > 0 ∧ x0 / 8 < 7
  · rw [if_pos hc, xorByte_hit, xorByte_hit, fbRead_xorByte _ _ _ _ hb]
    simp [hc, or_assoc]
  · rw [if_neg hc, xorByte_hit]
    simp [hc]

/-- The rows of a sprite leave the collision note alone or raise it. -/
theorem State.drawRows_succ (s : State) (x0 y0 r : Nat) :
    s.drawRows x0 y0 (r + 1)
      = drawRow (s.memRead (s.indexed r)) x0 (y0 + r) (s.drawRows x0 y0 r) := rfl

end Sys2Proof.Machine
end

