-- ==== Sys2Proof/Laws/Step.lean ====
section
/-!
SUPPORT. What a step can do, said once (40_engine.md R110; 10_state.md R50), and the shape of every
instruction's next state: what proofs about all steps cite instead of unfolding `step` or `exec`.
-/

namespace Sys2Proof.Machine

variable {s t : State}

/-- Taking an event off the list changes nothing that a fetch reads. -/
@[simp] theorem State.fetch16_popEvent (s : State) (a : Addr) : s.popEvent.fetch16 a = s.fetch16 a := rfl

/-- The ways one step ends, by its event and the run state. -/
theorem step_cases (h : step s = .next t) :
    (s.nextEvent = .tick ∧ t = s.popEvent.tick) ∨
    (∃ k p, s.nextEvent = .setKey k p ∧ t = s.popEvent.setKeyDown k p) ∨
    (∃ image, s.nextEvent = .load image ∧ t = s.popEvent.load image) ∨
    (s.nextEvent = .cycle ∧ s.run = .faulted ∧ t = s.popEvent) ∨
    (s.nextEvent = .cycle ∧ s.run = .awaitingKey ∧ t = s.popEvent.completeWait) ∨
    (s.nextEvent = .cycle ∧ s.run = .running ∧
      (∃ f w, decode (s.fetch16 s.pc) = .unrecognized f w) ∧
      t = s.popEvent.raiseFatal .unrecognizedSubOpcode) ∨
    (s.nextEvent = .cycle ∧ s.run = .running ∧
      ∃ i, decode (s.fetch16 s.pc) = .instr i ∧ exec i s.popEvent = .next t) := by
  have hf : s.popEvent.fetched = s.fetch16 s.pc := rfl
  unfold step applyEvent at h
  split at h
  · rename_i he
    unfold cycle at h
    split at h <;> rename_i hr <;> rw [State.popEvent_run] at hr
    · cases h; simp [he, hr]
    · cases h; simp [he, hr]
    · rw [hf] at h
      unfold execDecoded at h
      split at h
      · rename_i i hd; simp [he, hr, hd, h]
      · rename_i f w hd; cases h; simp [he, hr, hd, PcOutcome.apply]
  · cases h; exact .inl ⟨‹_›, rfl⟩
  · cases h; exact .inr (.inl ⟨_, _, ‹_›, rfl⟩)
  · cases h; exact .inr (.inr (.inl ⟨_, ‹_›, rfl⟩))

/-- The ways the key wait's cycle ends (40_engine.md R117). -/
theorem completeWait_cases (s : State) :
    (s.lowestKey = none ∧ s.completeWait = s) ∨
    ∃ k, s.lowestKey = some k ∧
      s.completeWait = ((s.setReg s.awaitReg (k.setWidth 8)).setPc (s.pc + 2)).resume := by
  unfold State.completeWait
  split <;> simp_all

/-- The ways an instruction ends, each as one update of the state (40_engine.md R114): a fatal stop, a
wait, a jump, or a move of `pc` by 2 or 4 after the instruction's own writes. -/
theorem exec_cases {i : Instr} (h : exec i s = .next t) :
    (∃ k, t = s.raiseFatal k) ∨
    (∃ x, i = .ldVxK x ∧ t = s.startWait x) ∨
    (∃ a, s.misaligned a = false ∧ ((i = .jp a) ∨ (∃ nnn, i = .jpV0 nnn ∧ a = s.offsetTarget nnn)) ∧
      t = s.setPc a) ∨
    (∃ a, i = .call a ∧ s.misaligned a = false ∧ s.stackFull = false ∧
      t = (s.push s.returnAddr).setPc a) ∨
    (∃ a rest, i = .ret ∧ s.stack = a :: rest ∧ t = (s.setStack rest).setPc a) ∨
    (∃ d, (d = 2 ∨ d = 4) ∧ ∃ u : State, t = u.setPc (s.pc + d) ∧
      (u = s ∨ (∃ x b, mayWriteReg i x = true ∧ u = s.setReg x b) ∨
       (∃ x b f, mayWriteReg i x = true ∧ mayWriteReg i VF = true ∧ u = s.writeResultThenFlag x b f) ∨
       (∃ a, u = s.setI a) ∨ (∃ x, i = .ldDtVx x ∧ u = s.setDT (s.reg x)) ∨
       (∃ x, i = .ldStVx x ∧ u = s.setST (s.reg x)) ∨
       (∃ x kk, i = .rnd x kk ∧ u = (s.setReg x (maskedDraw s.nextDraw kk)).consumeDraw) ∨
       (i = .cls ∧ u = s.setFB (Vector.replicate 256 0x00)) ∨
       (∃ x y n f c, i = .drw x y n ∧ u = (s.setFB f).setReg VF (collisionFlag c)) ∨
       (∃ x, i = .ldBVx x ∧ u = s.storeDigits (bcdDigits (s.reg x))) ∨
       (∃ x, i = .ldMemVx x ∧ u = s.dumpRegs (x.toNat + 1)) ∨
       (∃ x, i = .ldVxMem x ∧ u = s.restoreRegs (x.toNat + 1)))) := by
  have skip : ∀ c : Bool, finish (skipIf c) s = .next t →
      ∃ d : Addr, (d = 2 ∨ d = 4) ∧ t = s.setPc (s.pc + d) := by
    intro c hc
    rw [finish_skipIf] at hc
    cases hc
    cases c
    · exact ⟨2, .inl rfl, rfl⟩
    · exact ⟨4, .inr rfl, rfl⟩
  cases i with
  | sys nnn =>
    simp only [exec, execSys] at h
    split at h <;> cases h
    · exact .inr (.inr (.inr (.inr (.inr ⟨2, .inl rfl, s, rfl, .inl rfl⟩))))
    · exact .inl ⟨_, rfl⟩
  | cls =>
    cases h
    exact .inr (.inr (.inr (.inr (.inr ⟨2, .inl rfl, _, rfl, by simp⟩))))
  | ret =>
    simp only [exec, execRet] at h
    split at h
    · cases h; exact .inl ⟨_, rfl⟩
    · rename_i a rest hs
      cases h
      exact .inr (.inr (.inr (.inr (.inl ⟨a, rest, rfl, hs, rfl⟩))))
  | jp nnn =>
    simp only [exec, execJp, jumpChecked] at h
    split at h <;> rename_i hm <;> cases h
    · exact .inl ⟨_, rfl⟩
    · exact .inr (.inr (.inl ⟨nnn, by simpa using hm, .inl rfl, rfl⟩))
  | jpV0 nnn =>
    simp only [exec, execJpV0, jumpChecked] at h
    split at h <;> rename_i hm <;> cases h
    · exact .inl ⟨_, rfl⟩
    · exact .inr (.inr (.inl ⟨_, by simpa using hm, .inr ⟨nnn, rfl, rfl⟩, rfl⟩))
  | call nnn =>
    simp only [exec, execCall] at h
    split at h
    · cases h; exact .inl ⟨_, rfl⟩
    · split at h <;> cases h
      · exact .inl ⟨_, rfl⟩
      · exact .inr (.inr (.inr (.inl ⟨nnn, rfl, by simpa using ‹¬s.misaligned nnn = true›,
          by simpa using ‹¬s.stackFull = true›, rfl⟩)))
  | seImm x kk =>
    obtain ⟨d, hd, ht⟩ := skip _ h
    exact .inr (.inr (.inr (.inr (.inr ⟨d, hd, s, ht, .inl rfl⟩))))
  | sneImm x kk =>
    obtain ⟨d, hd, ht⟩ := skip _ h
    exact .inr (.inr (.inr (.inr (.inr ⟨d, hd, s, ht, .inl rfl⟩))))
  | seReg x y n =>
    obtain ⟨d, hd, ht⟩ := skip _ h
    exact .inr (.inr (.inr (.inr (.inr ⟨d, hd, s, ht, .inl rfl⟩))))
  | sneReg x y n =>
    obtain ⟨d, hd, ht⟩ := skip _ h
    exact .inr (.inr (.inr (.inr (.inr ⟨d, hd, s, ht, .inl rfl⟩))))
  | skp x =>
    obtain ⟨d, hd, ht⟩ := skip _ h
    exact .inr (.inr (.inr (.inr (.inr ⟨d, hd, s, ht, .inl rfl⟩))))
  | sknp x =>
    obtain ⟨d, hd, ht⟩ := skip _ h
    exact .inr (.inr (.inr (.inr (.inr ⟨d, hd, s, ht, .inl rfl⟩))))
  | ldVxK x => cases h; exact .inr (.inl ⟨x, rfl, rfl⟩)
  | ldImm x _ | addImm x _ | mov x _ | orReg x _ | andReg x _ | xorReg x _ | ldVxDt x =>
    cases h
    exact .inr (.inr (.inr (.inr (.inr
      ⟨2, .inl rfl, _, rfl, .inr (.inl ⟨x, _, by simp [mayWriteReg], rfl⟩)⟩))))
  | addReg x _ | subReg x _ | srl x _ | subnReg x _ | sll x _ =>
    cases h
    exact .inr (.inr (.inr (.inr (.inr ⟨2, .inl rfl, _, rfl,
      .inr (.inr (.inl ⟨x, _, _, by simp [mayWriteReg], by simp [mayWriteReg], rfl⟩))⟩))))
  | ldI _ | addIVx _ | ldFVx _ =>
    cases h
    exact .inr (.inr (.inr (.inr (.inr
      ⟨2, .inl rfl, _, rfl, .inr (.inr (.inr (.inl ⟨_, rfl⟩)))⟩))))
  | ldDtVx x =>
    cases h
    exact .inr (.inr (.inr (.inr (.inr
      ⟨2, .inl rfl, _, rfl, .inr (.inr (.inr (.inr (.inl ⟨x, rfl, rfl⟩))))⟩))))
  | ldStVx x =>
    cases h
    exact .inr (.inr (.inr (.inr (.inr
      ⟨2, .inl rfl, _, rfl, .inr (.inr (.inr (.inr (.inr (.inl ⟨x, rfl, rfl⟩)))))⟩))))
  | rnd x kk =>
    cases h
    exact .inr (.inr (.inr (.inr (.inr
      ⟨2, .inl rfl, _, rfl, .inr (.inr (.inr (.inr (.inr (.inr (.inl ⟨x, kk, rfl, rfl⟩))))))⟩))))
  | drw x y n =>
    cases h
    exact .inr (.inr (.inr (.inr (.inr ⟨2, .inl rfl, _, rfl,
      .inr (.inr (.inr (.inr (.inr (.inr (.inr (.inr (.inl ⟨x, y, n, _, _, rfl, rfl⟩))))))))⟩))))
  | ldBVx x =>
    cases h
    exact .inr (.inr (.inr (.inr (.inr ⟨2, .inl rfl, _, by rfl,
      .inr (.inr (.inr (.inr (.inr (.inr (.inr (.inr (.inr (.inl ⟨x, rfl, rfl⟩)))))))))⟩))))
  | ldMemVx x =>
    cases h
    refine .inr (.inr (.inr (.inr (.inr ⟨2, .inl rfl, s.dumpRegs (x.toNat + 1), ?_,
      .inr (.inr (.inr (.inr (.inr (.inr (.inr (.inr (.inr (.inr (.inl ⟨x, rfl, rfl⟩))))))))))⟩))))
    have hpc : (s.dumpRegs (x.toNat + 1)).pc = s.pc := by rw [State.dumpRegs_eq]
    rw [← hpc]; rfl
  | ldVxMem x =>
    cases h
    refine .inr (.inr (.inr (.inr (.inr ⟨2, .inl rfl, s.restoreRegs (x.toNat + 1), ?_,
      .inr (.inr (.inr (.inr (.inr (.inr (.inr (.inr (.inr (.inr (.inr ⟨x, rfl, rfl⟩))))))))))⟩))))
    have hpc : (s.restoreRegs (x.toNat + 1)).pc = s.pc := by rw [State.restoreRegs_eq]
    rw [← hpc]; rfl

/-- Every instruction answers a next state. -/
theorem exec_next (i : Instr) (s : State) : ∃ t, exec i s = .next t := by
  cases i <;>
    simp only [exec, execSys, execRet, execJp, execJpV0, jumpChecked, execCall] <;>
    (repeat' split) <;> exact ⟨_, rfl⟩

/-- The word that the host stores at `pc` is the word fetched next (20_memory.md R63, R74). -/
theorem State.fetched_withWordAtPc (s : State) (w : Word) : (s.withWordAtPc w).fetched = w := by
  have h : s.pc ≠ s.pc + 1 := by bv_omega
  have h0 : (s.withWordAtPc w).memRead s.pc = highByte w := by
    show ((s.memWrite s.pc (highByte w)).memWrite (s.pc + 1) (lowByte w)).memRead s.pc = _
    rw [State.memRead_memWrite, if_neg h, State.memRead_memWrite, if_pos rfl]
  have h1 : (s.withWordAtPc w).memRead (s.pc + 1) = lowByte w := by
    show ((s.memWrite s.pc (highByte w)).memWrite (s.pc + 1) (lowByte w)).memRead (s.pc + 1) = _
    rw [State.memRead_memWrite, if_pos rfl]
  show joinBytes ((s.withWordAtPc w).memRead s.pc) ((s.withWordAtPc w).memRead (s.pc + 1)) = w
  rw [h0, h1, joinBytes_high_low]

/-- The very next step runs the word stored by `withFetchWord` (log entry 13). -/
theorem step_withWordAtPc (s : State) (w : Word) :
    step (s.withWordAtPc w) = execDecoded (decode w) (s.withWordAtPc w) := by
  show execDecoded (decode (s.withWordAtPc w).fetched) (s.withWordAtPc w) = _
  rw [State.fetched_withWordAtPc]

end Sys2Proof.Machine
end

