-- ==== Sys2Proof/Tests/Slice0.lean ====
section
/-!
SUPPORT. The model's own tests. Expected values come from the spec: words from the patterns of
30_encoding.md R90, results from the vectors of 95_test_vectors.md, named beside each test by their ids.
At the end stands one witness for each set of hypotheses of the obligations.
-/

namespace Sys2Proof.Tests

open Sys2Proof.Machine

-- One theorem at a time: elaborated all at once, the tests would ask for a thread each.
set_option Elab.async false

/-! ### Helpers -/

/-- The state an outcome goes on with. -/
def nextState : Host.Outcome State Fault Refusal → Option State
  | .next t => some t
  | .fault _ => none
  | .refused _ => none

/-- One step of `s` with the word stored at `pc`. -/
def runWord (s : State) (w : Word) : Option State := nextState (step (s.withWordAtPc w))

/-- One step of `s` whose next event is `e`. -/
def runEvent (s : State) (e : Event) : Option State := nextState (step { s with events := [e] })

/-- The start state of the vectors: reset (10_state.md R40). -/
def start : State := State.reset

/-- Reset with two registers set. -/
def regs2 (x : RegIx) (a : Byte) (y : RegIx) (b : Byte) : State := (start.setReg x a).setReg y b

/-- A key wait for a register, one or two keys pressed. -/
def waiting (r : RegIx) (k j : KeyIx) : State :=
  ((start.startWait r).setKeyDown k true).setKeyDown j true

/-- Reset with other values of the parameters. -/
def withParams (depth : Option Nat) (even nop : Bool) : State :=
  { start with cfg := { defaultConfig with stackDepth := depth, enforceEvenPc := even, sysAsNop := nop } }

/-- A Faulted state. -/
def faulted : State := start.raiseFatal .stackUnderflow

/-- Sprite vectors' start: I = 0x300 with one sprite byte there, V0 and V1 the origin. -/
def sprite (vx vy row : Byte) : State := ((regs2 0 vx 1 vy).setI 0x300).memWrite 0x300 row

/-! ### WellFormed refuses what is no instruction (30_encoding.md R84) -/

theorem test_sys_0E0_is_ill_formed : (Instr.sys 0x0E0).wellFormed = false := by decide

theorem test_sys_0EE_is_ill_formed : (Instr.sys 0x0EE).wellFormed = false := by decide

theorem test_sys_0E1_is_well_formed : (Instr.sys 0x0E1).wellFormed = true := by decide

/-! ### Decoding: words written out from the patterns of 30_encoding.md R90 -/

theorem test_decode_machine :
    decode 0x0123 = .instr (.sys 0x123) ∧ decode 0x0000 = .instr (.sys 0x000) ∧
    decode 0x01E0 = .instr (.sys 0x1E0) ∧ decode 0x00E0 = .instr .cls ∧
    decode 0x00EE = .instr .ret := by decide

theorem test_decode_single_purpose_nnn :
    decode 0x1ABC = .instr (.jp 0xABC) ∧ decode 0x2ABC = .instr (.call 0xABC) ∧
    decode 0xA123 = .instr (.ldI 0x123) ∧ decode 0xB456 = .instr (.jpV0 0x456) := by decide

theorem test_decode_single_purpose_xkk :
    decode 0x3A5C = .instr (.seImm 0xA 0x5C) ∧ decode 0x4A5C = .instr (.sneImm 0xA 0x5C) ∧
    decode 0x6A5C = .instr (.ldImm 0xA 0x5C) ∧ decode 0x7A5C = .instr (.addImm 0xA 0x5C) ∧
    decode 0xCA5C = .instr (.rnd 0xA 0x5C) := by decide

theorem test_decode_single_purpose_xyn :
    decode 0x5120 = .instr (.seReg 0x1 0x2 0x0) ∧ decode 0x5127 = .instr (.seReg 0x1 0x2 0x7) ∧
    decode 0x912F = .instr (.sneReg 0x1 0x2 0xF) ∧
    decode 0xD125 = .instr (.drw 0x1 0x2 0x5) := by decide

theorem test_decode_alu_logic :
    decode 0x8AB0 = .instr (.mov 0xA 0xB) ∧ decode 0x8AB1 = .instr (.orReg 0xA 0xB) ∧
    decode 0x8AB2 = .instr (.andReg 0xA 0xB) ∧ decode 0x8AB3 = .instr (.xorReg 0xA 0xB) := by decide

theorem test_decode_alu_arithmetic :
    decode 0x8AB4 = .instr (.addReg 0xA 0xB) ∧ decode 0x8AB5 = .instr (.subReg 0xA 0xB) ∧
    decode 0x8AB6 = .instr (.srl 0xA 0xB) ∧ decode 0x8AB7 = .instr (.subnReg 0xA 0xB) ∧
    decode 0x8ABE = .instr (.sll 0xA 0xB) := by decide

theorem test_decode_key :
    decode 0xEC9E = .instr (.skp 0xC) ∧ decode 0xECA1 = .instr (.sknp 0xC) := by decide

theorem test_decode_control_timers :
    decode 0xF307 = .instr (.ldVxDt 0x3) ∧ decode 0xF30A = .instr (.ldVxK 0x3) ∧
    decode 0xF315 = .instr (.ldDtVx 0x3) ∧ decode 0xF318 = .instr (.ldStVx 0x3) := by decide

theorem test_decode_control_memory :
    decode 0xF31E = .instr (.addIVx 0x3) ∧ decode 0xF329 = .instr (.ldFVx 0x3) ∧
    decode 0xF333 = .instr (.ldBVx 0x3) ∧ decode 0xF355 = .instr (.ldMemVx 0x3) ∧
    decode 0xF365 = .instr (.ldVxMem 0x3) := by decide

/-- Illegal words (30_encoding.md R91). -/
theorem test_decode_illegal :
    decode 0x8008 = .unrecognized .alu 0x8008 ∧ decode 0x8ABF = .unrecognized .alu 0x8ABF ∧
    decode 0xE000 = .unrecognized .key 0xE000 ∧
    decode 0xF0FF = .unrecognized .control 0xF0FF := by decide

/-- The first byte is the word's high byte (20_memory.md R63); one byte is no word. -/
theorem test_decode_bytes :
    decodeBytes [0x12, 0x34, 0x00] = .decoded (.instr (.jp 0x234)) [0x00] ∧
    decodeBytes [0x12] = .truncated := by decide

theorem test_decode_table_word :
    decodeTableWord 16 0xF255 = some (.ldMemVx 0x2) ∧ decodeTableWord 16 0x800F = none := by decide

/-! ### The engine (vectors E-1 to E-6) -/

/-- E-4: with ENFORCE_EVEN_PC false, a word at 0xFFF takes its low byte from 0x000. -/
theorem test_fetch_wraps :
    (nextState (step ((((withParams none false false).memWrite 0xFFF 0x61).memWrite 0x000 0x07).setPc
      0xFFF))).map (fun t => (t.reg 1, t.pc)) = some (0x07, 0x001) := by decide +kernel

/-- E-5: a cycle in Faulted changes nothing, a tick counts on. -/
theorem test_faulted_cycle_changes_nothing :
    step (faulted.setDT 3) = .next (faulted.setDT 3) := rfl

theorem test_faulted_tick_counts :
    (runEvent (faulted.setDT 3) .tick).map (fun t => (t.dt, t.run)) = some (2, .faulted) := by
  decide +kernel

/-- The host's word runs as the first instruction from reset. -/
theorem test_with_fetch_word :
    (nextState (step (State.reset.withFetchWord 16 0x652A))).map (fun t => (t.reg 5, t.pc)) =
      some (0x2A, 0x202) := by decide +kernel

/-! ### Machine family (vectors M-1 to M-9) -/

/-- M-6. -/
theorem test_sys_faults :
    (runWord start 0x0123).map (fun t => (t.run, t.fault, t.pc)) =
      some (.faulted, some .unsupportedSys, 0x200) := by decide +kernel

/-- M-9. -/
theorem test_sys_as_nop :
    (runWord (withParams none true true) 0x0123).map (fun t => (t.run, t.pc)) =
      some (.running, 0x202) := by decide +kernel

/-- M-1. -/
theorem test_cls :
    (runWord ((start.setFB (fbWrite (fbWrite start.fb 0 0xFF) 255 0x01)).setReg VF 0x09) 0x00E0).map
      (fun t => (fbRead t.fb 0, fbRead t.fb 255, t.reg VF, t.pc)) = some (0, 0, 0x09, 0x202) := by
  decide +kernel

/-- M-3. -/
theorem test_ret :
    (runWord ((start.setStack [0x202]).setPc 0x300) 0x00EE).map (fun t => (t.pc, t.stack)) =
      some (0x202, []) := by decide +kernel

/-- M-4. -/
theorem test_ret_underflow :
    (runWord start 0x00EE).map (fun t => (t.run, t.fault, t.pc)) =
      some (.faulted, some .stackUnderflow, 0x200) := by decide +kernel

/-! ### Single-purpose codes (vectors S-1 to S-30) -/

/-- S-2. -/
theorem test_jp_odd :
    (runWord start 0x1201).map (fun t => (t.run, t.fault, t.pc)) =
      some (.faulted, some .misalignedPc, 0x200) := by decide +kernel

/-- S-3. -/
theorem test_jp_odd_unchecked :
    (runWord (withParams none false false) 0x1201).map (fun t => (t.run, t.pc)) =
      some (.running, 0x201) := by decide +kernel

/-- S-5. -/
theorem test_call_pushes_a_wrapped_address :
    (runWord (start.setPc 0xFFE) 0x2300).map (fun t => (t.stack, t.pc)) =
      some ([0x000], 0x300) := by decide +kernel

/-- S-8: the stack is full and the target odd; the target is checked first. -/
theorem test_call_checks_the_target_first :
    (runWord (((withParams (some 2) true false).setStack [0x202, 0x302]).setPc 0x400) 0x2501).map
      (fun t => (t.fault, t.stack, t.pc)) =
      some (some .misalignedPc, [0x202, 0x302], 0x400) := by decide +kernel

/-- S-9. -/
theorem test_se_imm : (runWord (start.setReg 3 0x10) 0x3310).map (·.pc) = some 0x204 := by
  decide +kernel

/-- E-3: the skip wraps. -/
theorem test_se_imm_wraps : (runWord (start.setPc 0xFFC) 0x3000).map (·.pc) = some 0x000 := by
  decide +kernel

/-- S-11. -/
theorem test_sne_imm : (runWord (start.setReg 3 0x11) 0x4310).map (·.pc) = some 0x204 := by
  decide +kernel

/-- S-12. -/
theorem test_sne_imm_equal : (runWord (start.setReg 3 0x10) 0x4310).map (·.pc) = some 0x202 := by
  decide +kernel

/-- S-14: the low nibble is ignored. -/
theorem test_se_reg : (runWord (regs2 1 7 2 7) 0x5121).map (·.pc) = some 0x204 := by decide +kernel

/-- S-15. -/
theorem test_se_reg_different : (runWord (regs2 1 7 2 8) 0x5120).map (·.pc) = some 0x202 := by
  decide +kernel

/-- S-16. -/
theorem test_sne_reg : (runWord (regs2 1 7 2 8) 0x9120).map (·.pc) = some 0x204 := by decide +kernel

/-- S-17. -/
theorem test_sne_reg_itself : (runWord (start.setReg 5 9) 0x9550).map (·.pc) = some 0x202 := by
  decide +kernel

/-- S-19. -/
theorem test_ld_imm_vf : (runWord start 0x6F2A).map (fun t => (t.reg VF, t.pc)) = some (0x2A, 0x202) := by
  decide +kernel

/-- S-20: no carry into VF. -/
theorem test_add_imm :
    (runWord (regs2 0 0xFF VF 0x07) 0x7001).map (fun t => (t.reg 0, t.reg VF)) = some (0x00, 0x07) := by
  decide +kernel

/-- S-23. -/
theorem test_ld_i : (runWord start 0xAFFF).map (fun t => (t.i, t.pc)) = some (0xFFF, 0x202) := by
  decide +kernel

/-- S-25. -/
theorem test_jp_v0_wraps : (runWord (start.setReg 0 0xFF) 0xBFFF).map (·.pc) = some 0x0FE := by
  decide +kernel

/-- S-27: the offset is V0, not V3. -/
theorem test_jp_v0_reads_v0 : (runWord (start.setReg 3 0x04) 0xB300).map (·.pc) = some 0x300 := by
  decide +kernel

/-- S-28. -/
theorem test_rnd_mask : maskedDraw 0xB7 0x0F = 0x07 := by decide

/-- S-29: whatever the draw, kk = 0 gives 0; one draw is consumed. -/
theorem test_rnd_zero_mask : ∃ t, exec (.rnd 2 0x00) start = .next t ∧ t.reg 2 = 0x00 ∧ t.draws = 1 :=
  ⟨_, rfl, (start.reg_setReg_same 2 _).trans (BitVec.and_zero), rfl⟩

/-! ### ALU family (vectors A-1 to A-30) -/

/-- A-2. -/
theorem test_mov_into_vf : (runWord (start.setReg 0 0x33) 0x8F00).map (·.reg VF) = some 0x33 := by
  decide +kernel

/-- A-3. -/
theorem test_or :
    (runWord ((regs2 0 0xF0 1 0x0F).setReg VF 0x55) 0x8011).map (fun t => (t.reg 0, t.reg VF)) =
      some (0xFF, 0x55) := by decide +kernel

/-- A-4. -/
theorem test_and :
    (runWord ((regs2 0 0xF0 1 0x3C).setReg VF 0x55) 0x8012).map (fun t => (t.reg 0, t.reg VF)) =
      some (0x30, 0x55) := by decide +kernel

/-- A-5. -/
theorem test_xor : (runWord (regs2 0 0xF0 1 0x3C) 0x8013).map (·.reg 0) = some 0xCC := by
  decide +kernel

/-- A-10: the flag is the last write. -/
theorem test_add_into_vf : (runWord (regs2 VF 0x10 1 0xF0) 0x8F14).map (·.reg VF) = some 1 := by
  decide +kernel

/-- A-11: the old VF is the addend. -/
theorem test_add_of_vf :
    (runWord (regs2 0 0x05 VF 0x03) 0x80F4).map (fun t => (t.reg 0, t.reg VF)) = some (0x08, 0) := by
  decide +kernel

/-- A-12. -/
theorem test_sub_borrow :
    (runWord (regs2 0 0x03 1 0x05) 0x8015).map (fun t => (t.reg 0, t.reg VF)) = some (0xFE, 0) := by
  decide +kernel

/-- A-13. -/
theorem test_sub_equal :
    (runWord (regs2 0 0x05 1 0x05) 0x8015).map (fun t => (t.reg 0, t.reg VF)) = some (0x00, 1) := by
  decide +kernel

/-- A-20: V[y] is not read. -/
theorem test_srl :
    (runWord (regs2 0 0x80 1 0x01) 0x8016).map (fun t => (t.reg 0, t.reg VF)) = some (0x40, 0) := by
  decide +kernel

/-- A-21. -/
theorem test_srl_of_vf : (runWord (start.setReg VF 0x03) 0x8F06).map (·.reg VF) = some 1 := by
  decide +kernel

/-- A-22. -/
theorem test_subn_borrow :
    (runWord (regs2 0 0x05 1 0x03) 0x8017).map (fun t => (t.reg 0, t.reg VF)) = some (0xFE, 0) := by
  decide +kernel

/-- A-23. -/
theorem test_subn :
    (runWord (regs2 0 0x03 1 0x05) 0x8017).map (fun t => (t.reg 0, t.reg VF)) = some (0x02, 1) := by
  decide +kernel

/-- A-28. -/
theorem test_sll :
    (runWord (start.setReg 0 0xC1) 0x800E).map (fun t => (t.reg 0, t.reg VF)) = some (0x82, 1) := by
  decide +kernel

/-- A-29. -/
theorem test_sll_of_vf : (runWord (start.setReg VF 0x81) 0x8F0E).map (·.reg VF) = some 1 := by
  decide +kernel

/-- A-30, one of its words. -/
theorem test_illegal_alu_word :
    (runWord start 0x8008).map (fun t => (t.run, t.fault, t.pc)) =
      some (.faulted, some .unrecognizedSubOpcode, 0x200) := by decide +kernel

/-! ### Sprite renderer (vectors DRW-1 to DRW-11) -/

/-- DRW-4b: the clipped pixels neither draw nor collide. -/
theorem test_drw_right_edge :
    (runWord ((sprite 62 0 0xFF).setFB (fbWrite start.fb 8 0xFF)) 0xD011).map
      (fun t => (fbRead t.fb 7, fbRead t.fb 8, t.reg VF)) = some (0x03, 0xFF, 0) := by decide +kernel

/-- DRW-5: the byte the row straddles into collides. -/
theorem test_drw_straddle_collides :
    (runWord ((sprite 3 0 0xFF).setFB (fbWrite start.fb 1 0x80)) 0xD011).map
      (fun t => (fbRead t.fb 0, fbRead t.fb 1, t.reg VF)) = some (0x1F, 0x60, 1) := by decide +kernel

/-! ### Key family (vectors K-1 to K-7) -/

/-- K-5: the key is the register's low nibble. -/
theorem test_skp :
    (runWord ((start.setReg 2 0x17).setKeyDown 7 true) 0xE29E).map (·.pc) = some 0x204 := by
  decide +kernel

/-- K-6: the key is the register's value, not its number. -/
theorem test_skp_reads_the_register :
    (runWord ((start.setReg 7 0x02).setKeyDown 7 true) 0xE79E).map (·.pc) = some 0x202 := by
  decide +kernel

/-- K-3. -/
theorem test_sknp : (runWord (start.setReg 2 0x07) 0xE2A1).map (·.pc) = some 0x204 := by decide +kernel

/-- K-4. -/
theorem test_sknp_pressed :
    (runWord ((start.setReg 2 0x07).setKeyDown 7 true) 0xE2A1).map (·.pc) = some 0x202 := by
  decide +kernel

/-! ### Control family and the key wait (vectors F-1 to F-25) -/

/-- F-1. -/
theorem test_ld_vx_dt :
    (runWord (start.setDT 0x3C) 0xF407).map (fun t => (t.reg 4, t.dt)) = some (0x3C, 0x3C) := by
  decide +kernel

/-- F-22, first step: the keys are not sampled in the instruction's own cycle. -/
theorem test_ld_vx_k :
    (runWord (start.setKeyDown 5 true) 0xF10A).map (fun t => (t.run, t.awaitReg, t.reg 1, t.pc)) =
      some (.awaitingKey, 1, 0, 0x200) := by decide +kernel

/-- F-2. -/
theorem test_ld_dt_vx : (runWord (start.setReg 4 5) 0xF415).map (fun t => (t.dt, t.st)) = some (5, 0) := by
  decide +kernel

/-- F-3. -/
theorem test_ld_st_vx : (runWord (start.setReg 4 2) 0xF418).map (fun t => (t.dt, t.st)) = some (0, 2) := by
  decide +kernel

/-- F-5. -/
theorem test_add_i_vx :
    (runWord ((regs2 0 1 VF 9).setI 0xFFF) 0xF01E).map (fun t => (t.i, t.reg VF)) =
      some (0x000, 9) := by decide +kernel

/-- F-7: the digit is the register's low nibble. -/
theorem test_ld_f_vx : (runWord (start.setReg 0 0x1A) 0xF029).map (·.i) = some 0x032 := by
  decide +kernel

/-- F-11: the addresses wrap. -/
theorem test_ld_b_vx :
    (runWord ((start.setReg 0 234).setI 0xFFE) 0xF033).map
      (fun t => (t.memRead 0xFFE, t.memRead 0xFFF, t.memRead 0x000)) = some (2, 3, 4) := by
  decide +kernel

/-- F-12: the byte after the last one is kept, and so is I. -/
theorem test_ld_mem_vx :
    (runWord ((((regs2 0 1 1 2).setReg 2 3).setI 0x400).memWrite 0x403 0xAA) 0xF255).map
      (fun t => (t.memRead 0x400, t.memRead 0x402, t.memRead 0x403, t.i)) =
      some (1, 3, 0xAA, 0x400) := by decide +kernel

/-- F-16: the register after the last one is kept, and so is I. -/
theorem test_ld_vx_mem :
    (runWord ((((start.memWrite 0x400 1).memWrite 0x402 3).setI 0x400).setReg 3 0x99) 0xF265).map
      (fun t => (t.reg 0, t.reg 2, t.reg 3, t.i)) = some (1, 3, 0x99, 0x400) := by decide +kernel

/-- F-21: the lowest pressed key. -/
theorem test_wait_takes_the_lowest_key :
    (nextState (step (waiting 0 9 3))).map (fun t => (t.reg 0, t.run, t.pc)) =
      some (3, .running, 0x202) := by decide +kernel

/-- F-19, second step. -/
theorem test_wait_without_a_key :
    step (start.startWait 3) = .next (start.startWait 3) := rfl

/-! ### Timers, load and reset (vectors T-2, L-3, L-4) -/

/-- T-2, its first tick, with ST already 0. -/
theorem test_tick : (runEvent (start.setDT 5) .tick).map (fun t => (t.dt, t.st)) = some (4, 0) := by
  decide +kernel

/-- L-4. -/
theorem test_load :
    (runEvent ((faulted.setReg 5 9).setKeyDown 3 true) (.load [0x12, 0x00])).map
      (fun t => (t.run, t.fault, t.reg 5, t.keyDown 3, t.memRead 0x200, t.memRead 0x004)) =
      some (.running, none, 0, false, 0x12, 0xF0) := by decide +kernel

/-- L-3: the last byte of the longest image lies at 0xFFF. -/
theorem test_load_longest_image (n : Nat) (hn : n = 3584) :
    loadReply (List.replicate n 0xEE) = .accepted ∧
    (start.load (List.replicate n 0xEE)).memRead 0xFFF = 0xEE := by
  have h : imageAccepted (List.replicate n 0xEE) = true :=
    (imageAccepted_iff _).2 (by rw [List.length_replicate]; omega)
  refine ⟨if_pos h, ?_⟩
  rw [State.load_accepted _ h]
  show Memory.read start.cfg (Memory.place start.cfg 512 (List.replicate n 0xEE) []) 4095 = 0xEE
  rw [Memory.read_place, List.length_replicate, if_pos (by omega),
    List.getD_eq_getElem _ _ (by rw [List.length_replicate]; omega), List.getElem_replicate]

/-- L-1. -/
theorem test_load_of_no_byte : loadReply [] = .rejected ∧ start.load [] = start := ⟨rfl, rfl⟩

/-! ### Witnesses

For each obligation with hypotheses, and for each of its clauses, a concrete state and operands that meet
them all together. -/

/-- A Running state about to execute `w`. -/
def fetching (w : Word) : State := start.withWordAtPc w

theorem witness_EncodeThenDecodeIsTheInstruction :
    (Instr.drw 0xF 0xF 0xF).wellFormed = true ∧ (Instr.sys 0x0EF).wellFormed = true := by decide

theorem witness_DecodeThenEncodeIsTheWord : decode 0xFF65 = .instr (.ldVxMem 0xF) := by decide

theorem witness_DecodeAgreesWithTheOpcodeTable :
    decode 0x00E1 = .instr (.sys 0x0E1) ∧ (∀ nnn, Instr.cls ≠ .sys nnn) ∧
    (0x00E0 : Word) &&& (tableRow .cls).2 = (tableRow .cls).1 := ⟨by decide, nofun, by decide⟩

/-- The word before CLS, the one before RET, and both ends of SYS's row. -/
theorem witness_DecodeAgreesWithTheOpcodeTable_sys :
    [(0x0000 : Word), 0x00DF, 0x00ED, 0x0FFF].all
      (fun w => w &&& 0xF000 == 0x0000 && w != 0x00E0 && w != 0x00EE) = true := by decide

theorem witness_StepRunsTheDecodedInstruction :
    (fetching 0x1234).run = .running ∧
    decode ((fetching 0x1234).fetch16 (fetching 0x1234).pc) = .instr (.jp 0x234) ∧
    (fetching 0x1234).events = [] := by decide +kernel

theorem witness_IllegalWord_alu :
    (fetching 0x8FF8).run = .running ∧ ((fetching 0x8FF8).fetch16 0x200).toNat / 4096 = 0x8 ∧
    ((fetching 0x8FF8).fetch16 0x200).toNat % 16 ∈ [0x8, 0x9, 0xA, 0xB, 0xC, 0xD, 0xF] := by
  decide +kernel

theorem witness_IllegalWord_key :
    (fetching 0xE09F).run = .running ∧ ((fetching 0xE09F).fetch16 0x200).toNat / 4096 = 0xE ∧
    ((fetching 0xE09F).fetch16 0x200).toNat % 256 ∉ [0x9E, 0xA1] := by decide +kernel

theorem witness_IllegalWord_control :
    (fetching 0xFF66).run = .running ∧ ((fetching 0xFF66).fetch16 0x200).toNat / 4096 = 0xF ∧
    ((fetching 0xFF66).fetch16 0x200).toNat % 256 ∉
      [0x07, 0x0A, 0x15, 0x18, 0x1E, 0x29, 0x33, 0x55, 0x65] := by decide +kernel

theorem witness_FatalErrorsArePreciseAndTheirCausesAreTheListedOnes :
    start.run = .running ∧ exec .ret start = .next (start.raiseFatal .stackUnderflow) ∧
    (start.raiseFatal .stackUnderflow).run = .faulted := ⟨rfl, rfl, rfl⟩

theorem witness_OnlyAnAcceptedLoadLeavesFaulted :
    faulted.run = .faulted ∧ ∀ image, Event.load image ∈ [Event.cycle, .tick, .load []] →
      ¬(1 ≤ image.length ∧ image.length ≤ 3584) := by
  refine ⟨rfl, fun image h => ?_⟩
  have : image = [] := by simpa using h
  subst this; decide

theorem witness_KeyWait_pressed :
    (waiting 0 15 3).run = .awaitingKey ∧ (waiting 0 15 3).keyDown 3 = true ∧
    ∀ j : KeyIx, j.toNat < (3 : KeyIx).toNat → (waiting 0 15 3).keyDown j = false := by
  decide +kernel

theorem witness_KeyWait_none :
    (start.startWait 3).run = .awaitingKey ∧ ∀ k : KeyIx, (start.startWait 3).keyDown k = false := by
  decide +kernel

theorem witness_ParkedStateIsAFixedPointOfCycles :
    (fetching 0x1200).Parked ∧ (fetching 0x1200).PcEven :=
  ⟨by decide +kernel, fun _ => ⟨rfl, nofun⟩⟩

theorem witness_Tick_counting :
    { start with dt := 1, st := 255, events := [.tick] }.events = .tick :: [] ∧
    { start with dt := 1, st := 255, events := [.tick] }.dt.toNat > 0 ∧
    { start with dt := 1, st := 255, events := [.tick] }.st.toNat > 0 := by decide

theorem witness_Tick_at_zero :
    { start with events := [.tick] }.events = .tick :: [] ∧
    { start with events := [.tick] }.dt.toNat = 0 ∧ { start with events := [.tick] }.st.toNat = 0 := by
  decide

theorem witness_SetKeyChangesThatKeyOnly :
    { start with events := [.setKey 15 true, .cycle] }.events = .setKey 15 true :: [.cycle] ∧
    (0 : KeyIx) ≠ 15 := by decide

theorem witness_AcceptedLoad_shortest :
    { faulted with events := [.load [0x12]] }.events = .load [0x12] :: [] ∧
    1 ≤ [(0x12 : Byte)].length ∧ [(0x12 : Byte)].length ≤ 3584 := by decide

theorem witness_AcceptedLoad_longest :
    ∃ image : List Byte, { start with events := [.load image] }.events = .load image :: [] ∧
      1 ≤ image.length ∧ image.length ≤ 3584 ∧ image.length = 3584 :=
  ⟨List.replicate _ 0xEE, rfl, by rw [List.length_replicate]; omega,
    by rw [List.length_replicate], List.length_replicate⟩

theorem witness_RejectedLoad_empty :
    { start with events := [.load []] }.events = .load [] :: [] ∧
    ([] : List Byte).length = 0 := by decide

theorem witness_RejectedLoad_too_long :
    ∃ image : List Byte, { start with events := [.load image] }.events = .load image :: [] ∧
      image.length > 3584 ∧ image.length = 3585 :=
  ⟨List.replicate _ 0xEE, rfl, by rw [List.length_replicate]; omega, List.length_replicate⟩

theorem witness_Sys_decoding : (0x0DF : Addr) ≠ 0x0E0 ∧ (0x0DF : Addr) ≠ 0x0EE := by decide

theorem witness_Sys_fault : start.cfg.sysAsNop = false := rfl

theorem witness_Sys_nop : (withParams none true true).cfg.sysAsNop = true := rfl

theorem witness_Ret_pops : (start.setStack [0x202, 0x302]).stack = 0x202 :: [0x302] := rfl

theorem witness_Ret_underflow : start.stack = [] := rfl

theorem witness_Jp_even :
    ((Instr.jp 0xFFE = .jp 0xFFE ∧ 0xFFE = (0xFFE : Addr).toNat) ∨
      (Instr.jp 0xFFE = .jpV0 0xFFE ∧ 0xFFE = ((0xFFE : Addr).toNat + (start.reg 0).toNat) % 4096)) ∧
    0xFFE % 2 = 0 := ⟨.inl ⟨rfl, rfl⟩, rfl⟩

theorem witness_Jp_odd_unchecked : (withParams none false false).cfg.enforceEvenPc = false := rfl

theorem witness_Jp_odd :
    start.cfg.enforceEvenPc = true ∧ (0xFFF : Addr).toNat % 2 = 1 := by decide +kernel

theorem witness_JpV0_even :
    0x0FE = ((0xFFF : Addr).toNat + ((start.setReg 0 0xFF).reg 0).toNat) % 4096 ∧ 0x0FE % 2 = 0 := by
  decide +kernel

theorem witness_JpV0_odd :
    (start.setReg 0 0x01).cfg.enforceEvenPc = true ∧
    0x201 = ((0x200 : Addr).toNat + ((start.setReg 0 0x01).reg 0).toNat) % 4096 ∧ 0x201 % 2 = 1 := by
  decide +kernel

theorem witness_Call_completes_and_comes_back :
    (0x300 : Addr).toNat % 2 = 0 ∧
    ((withParams (some 2) true false).setStack [0x202]).cfg.stackDepth ≠
      some ((withParams (some 2) true false).setStack [0x202]).stack.length := by decide

theorem witness_Call_odd : start.cfg.enforceEvenPc = true ∧ (0x301 : Addr).toNat % 2 = 1 := by
  decide +kernel

theorem witness_Call_overflow :
    (0x300 : Addr).toNat % 2 = 0 ∧
    ((withParams (some 1) true false).setStack [0x202]).cfg.stackDepth =
      some ((withParams (some 1) true false).setStack [0x202]).stack.length := by decide

theorem witness_Rnd_zero_mask : (0x00 : Byte) = 0x00 := rfl

theorem witness_Logic :
    ((Instr.orReg 0 1 = .orReg 0 1 ∧ Bool.or = Bool.or) ∨
      (Instr.orReg 0 1 = .andReg 0 1 ∧ Bool.or = Bool.and) ∨
      (Instr.orReg 0 1 = .xorReg 0 1 ∧ Bool.or = Bool.xor)) ∧ 7 < 8 := ⟨.inl ⟨rfl, rfl⟩, by decide⟩

/-- The clauses on `V[x]` where `x` is not F, and on a third register. -/
theorem witness_Alu_register_clauses :
    (0xE : RegIx) ≠ VF ∧ (0x0 : RegIx) ≠ 0xE ∧ (0x0 : RegIx) ≠ VF := by decide

theorem witness_Drw_inverts_and_collides :
    (63 < 64 ∧ 31 < 32 ∧ (sprite 63 31 0x80).SpriteInverts 0 1 1 63 31) ∧
    pixel ((sprite 63 31 0x80).setFB (fbWrite start.fb 255 0x01)).fb 63 31 = true :=
  ⟨⟨by decide, by decide, 0, 0, by decide, by decide, by decide +kernel, by decide +kernel,
    by decide +kernel⟩, by decide +kernel⟩

theorem witness_Drw_collides :
    ∃ px py, px < 64 ∧ py < 32 ∧
      ((sprite 63 31 0x80).setFB (fbWrite start.fb 255 0x01)).SpriteInverts 0 1 1 px py ∧
      pixel ((sprite 63 31 0x80).setFB (fbWrite start.fb 255 0x01)).fb px py = true :=
  ⟨63, 31, by decide, by decide, ⟨0, 0, by decide, by decide, by decide +kernel, by decide +kernel,
    by decide +kernel⟩, by decide +kernel⟩

theorem witness_Drw_no_collision :
    ¬∃ px py, px < 64 ∧ py < 32 ∧ (sprite 4 0 0xF0).SpriteInverts 0 1 1 px py ∧
      pixel (sprite 4 0 0xF0).fb px py = true := by
  rintro ⟨px, py, -, -, -, h⟩
  have hb : (sprite 4 0 0xF0).fb = Vector.replicate 256 0x00 := rfl
  rw [hb, pixel, fbRead_blank] at h
  simp at h

theorem witness_DrawingTwiceRestoresTheScreen : (0xA : RegIx) ≠ VF ∧ (0xB : RegIx) ≠ VF := by decide

theorem witness_KeyWaitInstruction :
    (start.setKeyDown 5 true).keyDown 5 = true ∧
    ∀ j : KeyIx, j.toNat < (5 : KeyIx).toNat → (start.setKeyDown 5 true).keyDown j = false := by
  decide +kernel

theorem witness_Bcd_frame :
    (0x004 : Addr) ≠ (start.setI 0xFFE).indexed 0 ∧ (0x004 : Addr) ≠ (start.setI 0xFFE).indexed 1 ∧
    (0x004 : Addr) ≠ (start.setI 0xFFE).indexed 2 ∧ 2 < 3 := by decide +kernel

theorem witness_Dump_clauses :
    15 ≤ (0xF : RegIx).toNat ∧
    ∀ k, k ≤ (0x0 : RegIx).toNat → (0x401 : Addr) ≠ (start.setI 0x400).indexed k := by
  refine ⟨by decide, fun k hk => ?_⟩
  have : k = 0 := by simpa using hk
  subst this; decide +kernel

theorem witness_Restore_clauses :
    (0xE : RegIx).toNat ≤ (0xE : RegIx).toNat ∧ (0xE : RegIx).toNat < (0xF : RegIx).toNat := by decide

/-- A step of this kind exists: the next state and what it changed. -/
theorem witness_OnlyBcdDumpAndLoadChangeMemory :
    ∃ t, step ((fetching 0xF055).setI 0x400 |>.setReg 0 0x77) = .next t ∧
      ∃ a : Addr, t.memRead a ≠ ((fetching 0xF055).setI 0x400 |>.setReg 0 0x77).memRead a :=
  ⟨_, rfl, 0x400, by decide +kernel⟩

theorem witness_OnlyClsDrwAndLoadChangeTheScreen :
    ∃ t, step ((fetching 0x00E0).setFB (fbWrite start.fb 0 0xFF)) = .next t ∧
      t.fb ≠ ((fetching 0x00E0).setFB (fbWrite start.fb 0 0xFF)).fb :=
  ⟨_, rfl, fun h => absurd (congrArg (fbRead · 0) h) (by decide +kernel)⟩

theorem witness_OnlyCallRetAndLoadChangeTheStack :
    ∃ t, step (fetching 0x2300) = .next t ∧ t.stack ≠ (fetching 0x2300).stack :=
  ⟨_, rfl, by decide +kernel⟩

theorem witness_TimersRiseOnlyWhenSet_dt :
    ∃ t, step ((fetching 0xF415).setReg 4 5) = .next t ∧
      t.dt.toNat > ((fetching 0xF415).setReg 4 5).dt.toNat := ⟨_, rfl, by decide +kernel⟩

theorem witness_TimersRiseOnlyWhenSet_st :
    ∃ t, step ((fetching 0xF418).setReg 4 5) = .next t ∧
      t.st.toNat > ((fetching 0xF418).setReg 4 5).st.toNat := ⟨_, rfl, by decide +kernel⟩

theorem witness_InstructionsWriteOnlyTheirRegisters :
    (∃ t, exec (.ldVxMem 0xE) start = .next t) ∧ mayWriteReg (.ldVxMem 0xE) VF = false :=
  ⟨⟨_, rfl⟩, by decide⟩

theorem witness_NoCycleReadsTheSoundTimer : ∃ t, cycle (fetching 0x652A) = .next t := ⟨_, rfl⟩

theorem witness_invariants :
    start.MemCanonical ∧ start.PcEven ∧ start.FaultRecorded ∧ start.StackBounded ∧
    ∃ t, step start = .next t :=
  ⟨Memory.wf_reset, fun _ => ⟨rfl, nofun⟩, ⟨nofun, fun _ => rfl⟩, nofun, _, rfl⟩

/-- The invariants' hypotheses also hold where they say more: a written memory, a full stack. -/
theorem witness_invariants_full :
    (sprite 0 0 0xFF).MemCanonical ∧ (faulted.fault = none ↔ faulted.run ≠ .faulted) ∧
    ((withParams (some 1) true false).setStack [0x202]).StackBounded ∧
    ((withParams (some 1) true false).setStack [0x202]).PcEven :=
  ⟨State.memWrite_wf _ _ _ Memory.wf_reset, ⟨nofun, fun h => absurd rfl h⟩,
    fun d h => by cases h; exact Nat.le_refl 1,
    fun _ => ⟨rfl, fun a h => by simp only [State.setStack, List.mem_singleton] at h; subst h; rfl⟩⟩

theorem witness_StepNeverChangesAParameter :
    ∃ t, step { start with events := [.load [0x12, 0x00]] } = .next t := ⟨_, rfl⟩

end Sys2Proof.Tests
end

section
/-!
PROOFS. How frames compose, and what a step does with the host event at the head of the list
(10_state.md R50, R53; log entry 2).
-/

namespace Sys2Proof.Machine

variable {s t u : State}

/-! ### Frames compose -/

theorem StatePart.Same.trans {p : StatePart} (hst : p.Same s t) (htu : p.Same t u) :
    p.Same s u := by
  cases p
  case mem | regs | key => exact fun j => (htu j).trans (hst j)
  all_goals exact Eq.trans htu hst

theorem ChangesOnly.trans {ps : List StatePart} (hst : ChangesOnly ps s t)
    (htu : ChangesOnly ps t u) : ChangesOnly ps s u :=
  fun p hp => (hst p hp).trans (htu p hp)

theorem ChangesOnly.mono {ps qs : List StatePart} (hsub : ps ⊆ qs) (h : ChangesOnly ps s t) :
    ChangesOnly qs s t :=
  fun p hp => h p fun hmem => hp (hsub hmem)

/-! ### The event at the head of the list -/

theorem step_of_events_cons {e : Event} {es : List Event} (h : s.events = e :: es) :
    step s = applyEvent e s.popEvent := by
  simp [step, State.nextEvent, h]

theorem State.changesOnly_popEvent (s : State) : ChangesOnly [.events] s s.popEvent := by
  intro p hp
  cases p
  case events => simp at hp
  case mem | regs | key => exact fun _ => rfl
  all_goals rfl

/-! ### `set_key` (10_state.md R52) -/

theorem State.changesOnly_setKeyDown (s : State) (k : KeyIx) (pressed : Bool) :
    ChangesOnly [.key] s (s.setKeyDown k pressed) := by
  intro p hp
  cases p
  case key => simp at hp
  case mem | regs => exact fun _ => rfl
  all_goals rfl

/-- Settles O15: the step takes the event off the list and sets the key; the two frames compose. -/
theorem setKeyChangesThatKeyOnly : Obligations.SetKeyChangesThatKeyOnly := by
  intro s es k pressed hev
  have hstep : step s = .next (s.popEvent.setKeyDown k pressed) := step_of_events_cons hev
  have hframe : ChangesOnly [.key, .events] s (s.popEvent.setKeyDown k pressed) :=
    (s.changesOnly_popEvent.mono (by simp)).trans
      ((s.popEvent.changesOnly_setKeyDown k pressed).mono (by simp))
  refine ⟨_, hstep, ?_, fun j hj => ?_, ?_, hframe⟩
  · simp [State.keyDown_setKeyDown]
  · simp [State.keyDown_setKeyDown, hj]
  · simp [hev]

end Sys2Proof.Machine
end

section
/-!
PROOFS. What a fetch reads (20_memory.md R63), the frames of the steps that execute no instruction, and
what may change memory (20_memory.md R76).
-/

namespace Sys2Proof.Machine

variable {s t : State}

/-! ### Fetch (20_memory.md R63) -/

theorem addr_ofNat_succ_mod (a : Addr) : BitVec.ofNat 12 ((a.toNat + 1) % 4096) = a + 1 := by
  apply BitVec.eq_of_toNat_eq
  simp [BitVec.toNat_add]

/-- Settles O6: `joinBytes` is high byte first, and `a + 1` on 12 bits is the address reduced mod 4096. -/
theorem fetchJoinsTwoBytesHighFirst : Obligations.FetchJoinsTwoBytesHighFirst := by
  intro s a
  rw [addr_ofNat_succ_mod, State.fetch16, toNat_joinBytes]

/-! ### Frames of the steps that execute no instruction -/

theorem State.changesOnly_tick (s : State) : ChangesOnly [.dt, .st] s s.tick := by
  intro p hp
  cases p
  case dt | st => simp at hp
  case mem | regs | key => exact fun _ => rfl
  all_goals rfl

theorem State.changesOnly_raiseFatal (s : State) (k : FaultKind) :
    ChangesOnly [.run, .fault] s (s.raiseFatal k) := by
  intro p hp
  cases p
  case run | fault => simp at hp
  case mem | regs | key => exact fun _ => rfl
  all_goals rfl

theorem ChangesOnly.refl (ps : List StatePart) (s : State) : ChangesOnly ps s s := by
  intro p _
  cases p
  case mem | regs | key => exact fun _ => rfl
  all_goals rfl

theorem State.changesOnly_completeWait (s : State) :
    ChangesOnly [.regs, .pc, .run] s s.completeWait := by
  obtain ⟨-, hnone⟩ | ⟨k, -, hkey⟩ := completeWait_cases s
  · rw [hnone]
    exact .refl _ s
  · rw [hkey]
    intro p hp
    cases p
    case regs | pc | run => simp at hp
    case mem | key => exact fun _ => rfl
    all_goals rfl

/-- What acts after the event is taken off the list changes the list besides its own parts. -/
theorem ChangesOnly.of_popEvent {ps : List StatePart} (h : ChangesOnly ps s.popEvent t) :
    ChangesOnly (.events :: ps) s t :=
  (s.changesOnly_popEvent.mono (by simp)).trans (h.mono (by simp))

/-- A step is a load, executes an instruction, or leaves memory, `I`, the stack, the framebuffer, the
awaited register, the parameters and the draws as they were (20_memory.md R70, R76). -/
theorem step_load_or_exec_or_frame (h : step s = .next t) :
    (∃ image, s.nextEvent = .load image) ∨
    (∃ i, s.nextEvent = .cycle ∧ s.run = .running ∧ decode (s.fetch16 s.pc) = .instr i ∧
      exec i s.popEvent = .next t) ∨
    ChangesOnly [.events, .regs, .pc, .dt, .st, .key, .run, .fault] s t := by
  obtain ⟨-, rfl⟩ | ⟨k, p, -, rfl⟩ | ⟨image, he, -⟩ | ⟨-, -, rfl⟩ | ⟨-, -, rfl⟩ | ⟨-, -, -, rfl⟩ |
    ⟨he, hr, i, hd, hx⟩ := step_cases h
  · exact .inr (.inr (s.popEvent.changesOnly_tick.of_popEvent.mono (by simp)))
  · exact .inr (.inr ((s.popEvent.changesOnly_setKeyDown k p).of_popEvent.mono (by simp)))
  · exact .inl ⟨image, he⟩
  · exact .inr (.inr (s.changesOnly_popEvent.mono (by simp)))
  · exact .inr (.inr (s.popEvent.changesOnly_completeWait.of_popEvent.mono (by simp)))
  · exact .inr (.inr ((s.popEvent.changesOnly_raiseFatal _).of_popEvent.mono (by simp)))
  · exact .inr (.inl ⟨i, he, hr, hd, hx⟩)

/-! ### What may change memory (20_memory.md R76) -/

@[simp] theorem State.memRead_restoreRegs (s : State) (n : Nat) (a : Addr) :
    (s.restoreRegs n).memRead a = s.memRead a := by
  rw [State.restoreRegs_eq]; rfl

/-- An instruction other than FX33 and FX55 leaves every byte of memory unchanged. -/
theorem exec_memRead {i : Instr} (h : exec i s = .next t) (a : Addr) :
    t.memRead a = s.memRead a ∨ ∃ x, i = .ldBVx x ∨ i = .ldMemVx x := by
  obtain ⟨k, rfl⟩ | ⟨x, -, rfl⟩ | ⟨_, -, -, rfl⟩ | ⟨_, -, -, -, rfl⟩ | ⟨_, _, -, -, rfl⟩ |
    ⟨d, -, u, rfl, hu⟩ := exec_cases h
  case inr.inr.inr.inr.inr =>
    -- BCD and the dump give the right side by their constructors; every other update keeps memory.
    obtain rfl | ⟨_, _, -, rfl⟩ | ⟨_, _, _, -, -, rfl⟩ | ⟨_, rfl⟩ | ⟨_, -, rfl⟩ | ⟨_, -, rfl⟩ |
      ⟨_, _, -, rfl⟩ | ⟨-, rfl⟩ | ⟨_, _, _, _, _, -, rfl⟩ | ⟨x, rfl, -⟩ | ⟨x, rfl, -⟩ |
      ⟨_, -, rfl⟩ := hu
    all_goals simp
  all_goals simp

/-- Settles O46: a step that executes no instruction and is no load keeps every byte, and of the
instructions only FX33 and FX55 do not. -/
theorem onlyBcdDumpAndLoadChangeMemory : Obligations.OnlyBcdDumpAndLoadChangeMemory := by
  rintro s t h ⟨a, ha⟩
  obtain hload | ⟨i, he, hr, hd, hx⟩ | hframe := step_load_or_exec_or_frame h
  · exact .inl hload
  · obtain hkept | ⟨x, hi⟩ := exec_memRead hx a
    · exact absurd hkept ha
    · exact .inr ⟨he, hr, x, by simpa [hd] using hi⟩
  · exact absurd (hframe .mem (by simp) a) ha

end Sys2Proof.Machine
end

section
/-!
PROOFS. The key wait's cycle (40_engine.md R117): which key `lowestKey` answers, and what the cycle does
with it.
-/

namespace Sys2Proof.Machine

variable {s : State} {k : KeyIx}

/-! ### The lowest pressed key -/

theorem mem_allKeys (k : KeyIx) : k ∈ allKeys :=
  List.mem_map.mpr ⟨k.toNat, List.mem_range.mpr k.isLt, by simp⟩

theorem State.lowestKey_eq_none_iff : s.lowestKey = none ↔ ∀ k : KeyIx, s.keyDown k = false := by
  simp [State.lowestKey, mem_allKeys]

/-- `allKeys` is ascending, so the first pressed key in it has no pressed key below it. -/
theorem State.lowestKey_eq_some (hdown : s.keyDown k = true)
    (hlow : ∀ j : KeyIx, j.toNat < k.toNat → s.keyDown j = false) : s.lowestKey = some k := by
  have hfind : (List.range 16).find? (s.keyDown ∘ BitVec.ofNat 4) = some k.toNat := by
    refine List.find?_range_eq_some.mpr ⟨by simpa using hdown, List.mem_range.mpr k.isLt, ?_⟩
    intro j hj
    have hj16 : j < 2 ^ 4 := hj.trans k.isLt
    simpa using hlow (BitVec.ofNat 4 j) (by rwa [BitVec.toNat_ofNat, Nat.mod_eq_of_lt hj16])
  rw [State.lowestKey, allKeys, List.find?_map, hfind, Option.map_some, BitVec.ofNat_toNat,
    BitVec.setWidth_eq]

/-! ### The cycle in AwaitingKey -/

theorem cycle_of_awaitingKey (h : s.run = .awaitingKey) : cycle s = .next s.completeWait := by
  simp [cycle, h]

theorem State.completeWait_of_lowestKey_eq_none (h : s.lowestKey = none) : s.completeWait = s := by
  simp [State.completeWait, h]

theorem State.completeWait_of_lowestKey_eq_some (h : s.lowestKey = some k) :
    s.completeWait = ((s.setReg s.awaitReg (k.setWidth 8)).setPc (s.pc + 2)).resume := by
  simp [State.completeWait, h]

/-- Settles O11: `lowestKey` answers the key the statement names, or none, and the wait ends or stays
accordingly; the frame is that of `completeWait`. -/
theorem keyWaitTakesTheLowestPressedKey : Obligations.KeyWaitTakesTheLowestPressedKey := by
  intro s hrun
  refine ⟨fun k hdown hlow => ?_, fun hup => ?_⟩
  · have hwait := State.completeWait_of_lowestKey_eq_some (State.lowestKey_eq_some hdown hlow)
    refine ⟨s.completeWait, cycle_of_awaitingKey hrun, ?_, fun r hr => ?_, ?_, ?_,
      s.changesOnly_completeWait⟩ <;> rw [hwait]
    · have hk : k.toNat < 256 := k.isLt.trans (by decide)
      simpa using hk
    · simp [State.reg_setReg_ne, hr]
    · simp [BitVec.toNat_add]
    · rfl
  · rw [cycle_of_awaitingKey hrun,
      State.completeWait_of_lowestKey_eq_none (State.lowestKey_eq_none_iff.mpr hup)]

end Sys2Proof.Machine
end

section
/-!
PROOFS. The Machine family (41_machine_family.md): CLS (R132), and the frames of the two writes it makes.
-/

namespace Sys2Proof.Machine

/-! ### Frames of `pc <- t` and `FB <- f` -/

theorem State.changesOnly_setPc (s : State) (a : Addr) : ChangesOnly [.pc] s (s.setPc a) := by
  intro p hp
  cases p
  case pc => simp at hp
  case mem | regs | key => exact fun _ => rfl
  all_goals rfl

theorem State.changesOnly_setFB (s : State) (f : FrameBuffer) : ChangesOnly [.fb] s (s.setFB f) := by
  intro p hp
  cases p
  case fb => simp at hp
  case mem | regs | key => exact fun _ => rfl
  all_goals rfl

/-! ### CLS (R132) -/

theorem exec_cls (s : State) :
    exec .cls s = .next ((s.setFB (Vector.replicate 256 0x00)).setPc (s.pc + 2)) := rfl

/-- Settles O20: the framebuffer CLS writes is blank whatever it was before, so a second CLS writes the
same one; the frame is that of the two writes. -/
theorem clsClearsTheScreenAndIsIdempotent : Obligations.ClsClearsTheScreenAndIsIdempotent := by
  refine ⟨by decide, fun s => ⟨_, _, exec_cls s, fun b _ => fbRead_blank b, ?_, ?_, exec_cls _, ?_⟩⟩
  · simp
  · exact ((s.changesOnly_setFB _).mono (by simp)).trans
      ((State.changesOnly_setPc _ _).mono (by simp))
  · simp

end Sys2Proof.Machine
end

section
/-!
PROOFS. The single-purpose family (42_single_purpose.md): SE_IMM and SNE_IMM (R143, R144), and what any
conditional skip does (40_engine.md R114).
-/

namespace Sys2Proof.Machine

variable {i : Instr} {s : State}

/-! ### Conditional skips (40_engine.md R114) -/

/-- An instruction that only skips on `c` completes, moves `pc` by 4 or by 2, and changes nothing else. -/
theorem exec_of_skipIf {c : Bool} (h : exec i s = finish (skipIf c) s) :
    ∃ t, exec i s = .next t ∧ t.pc = (if c = true then s.pc + 4 else s.pc + 2) ∧
      ChangesOnly [.pc] s t :=
  ⟨_, h.trans (finish_skipIf s c), rfl, s.changesOnly_setPc _⟩

/-! ### SE_IMM and SNE_IMM (R143, R144) -/

theorem decode_packXKK_seImm (x : RegIx) (kk : Byte) :
    decode (packXKK 0x3 x kk) = .instr (.seImm x kk) := by
  simp [decode]

theorem decode_packXKK_sneImm (x : RegIx) (kk : Byte) :
    decode (packXKK 0x4 x kk) = .instr (.sneImm x kk) := by
  simp [decode]

theorem exec_seImm (x : RegIx) (kk : Byte) (s : State) :
    exec (.seImm x kk) s = finish (skipIf (s.reg x == kk)) s := rfl

theorem exec_sneImm (x : RegIx) (kk : Byte) (s : State) :
    exec (.sneImm x kk) s = finish (skipIf (s.reg x != kk)) s := rfl

/-- Settles O25: both are conditional skips, on `V[x] = kk` and on its negation. -/
theorem immediateSkipsCompareARegisterWithKk : Obligations.ImmediateSkipsCompareARegisterWithKk := by
  intro x kk s
  refine ⟨decode_packXKK_seImm x kk, decode_packXKK_sneImm x kk, ?_, ?_⟩
  · simpa only [beq_iff_eq] using exec_of_skipIf (exec_seImm x kk s)
  · simpa only [bne_iff_ne] using exec_of_skipIf (exec_sneImm x kk s)

end Sys2Proof.Machine
end

section
/-!
PROOFS. The ALU family (43_alu_family.md): what a register write and a flag-writing ALU instruction leave
behind (R171), MOV, SUB and the shifts (R172, R177, R178, R180), and the words no instruction stands for
(R181, R214, R230).
-/

namespace Sys2Proof.Machine

variable {i : Instr} {s : State} {w : Word}

/-! ### Words no instruction stands for (30_encoding.md R91) -/

theorem fieldTop_eq_iff (w : Word) (n : Nibble) : fieldTop w = n ↔ w.toNat / 4096 = n.toNat := by
  rw [← BitVec.toNat_inj, toNat_fieldTop]

theorem fieldN_eq_iff (w : Word) (n : Nibble) : fieldN w = n ↔ w.toNat % 16 = n.toNat := by
  rw [← BitVec.toNat_inj, toNat_fieldN]

theorem fieldKK_eq_iff (w : Word) (kk : Byte) : fieldKK w = kk ↔ w.toNat % 256 = kk.toNat := by
  rw [← BitVec.toNat_inj, toNat_fieldKK]

theorem decode_of_illegal_alu (htop : w.toNat / 4096 = 0x8)
    (hsub : w.toNat % 16 ∈ [0x8, 0x9, 0xA, 0xB, 0xC, 0xD, 0xF]) :
    decode w = .unrecognized .alu w := by
  have hfamily : decode w = decodeAlu w := by simp [decode, fieldTop_eq_iff, htop]
  rw [hfamily]
  simp only [List.mem_cons, List.not_mem_nil, or_false] at hsub
  obtain h | h | h | h | h | h | h := hsub <;> simp [decodeAlu, fieldN_eq_iff, h]

theorem decode_of_illegal_key (htop : w.toNat / 4096 = 0xE)
    (hsub : w.toNat % 256 ∉ [0x9E, 0xA1]) : decode w = .unrecognized .key w := by
  have hfamily : decode w = decodeKey w := by simp [decode, fieldTop_eq_iff, htop]
  rw [hfamily]
  simp only [List.mem_cons, List.not_mem_nil, or_false, not_or] at hsub
  simp [decodeKey, fieldKK_eq_iff, hsub]

theorem decode_of_illegal_control (htop : w.toNat / 4096 = 0xF)
    (hsub : w.toNat % 256 ∉ [0x07, 0x0A, 0x15, 0x18, 0x1E, 0x29, 0x33, 0x55, 0x65]) :
    decode w = .unrecognized .control w := by
  have hfamily : decode w = decodeControl w := by simp [decode, fieldTop_eq_iff, htop]
  rw [hfamily]
  simp only [List.mem_cons, List.not_mem_nil, or_false, not_or] at hsub
  simp [decodeControl, fieldKK_eq_iff, hsub]

theorem cycle_of_unrecognized {f : Family} (hrun : s.run = .running)
    (hdec : decode (s.fetch16 s.pc) = .unrecognized f w) :
    cycle s = .next (s.raiseFatal .unrecognizedSubOpcode) := by
  simp [cycle, hrun, State.fetched, hdec, execDecoded]

/-- Settles O8: the word decodes to its family's `unrecognized`, and the cycle is the fatal stop, whose
frame is `run` and `fault`. -/
theorem illegalWordFaultsAndChangesNothingElse :
    Obligations.IllegalWordFaultsAndChangesNothingElse := by
  intro s hrun hillegal
  have hdec : ∃ f, decode (s.fetch16 s.pc) = .unrecognized f (s.fetch16 s.pc) := by
    obtain ⟨htop, hsub⟩ | ⟨htop, hsub⟩ | ⟨htop, hsub⟩ := hillegal
    · exact ⟨_, decode_of_illegal_alu htop hsub⟩
    · exact ⟨_, decode_of_illegal_key htop hsub⟩
    · exact ⟨_, decode_of_illegal_control htop hsub⟩
  obtain ⟨f, hdec⟩ := hdec
  exact ⟨_, cycle_of_unrecognized hrun hdec, s.raiseFatal_run _, s.raiseFatal_fault _,
    s.changesOnly_raiseFatal _⟩

/-! ### Instructions that end in a register write -/

theorem State.changesOnly_setReg (s : State) (x : RegIx) (b : Byte) :
    ChangesOnly [.regs] s (s.setReg x b) := by
  intro p hp
  cases p
  case regs => simp at hp
  case mem | key => exact fun _ => rfl
  all_goals rfl

theorem State.changesOnly_writeResultThenFlag (s : State) (x : RegIx) (result flag : Byte) :
    ChangesOnly [.regs] s (s.writeResultThenFlag x result flag) :=
  (s.changesOnly_setReg x result).trans (State.changesOnly_setReg _ VF flag)

/-- Moving `pc` after a write of registers adds `pc` to the frame. -/
theorem ChangesOnly.setPc {t : State} (h : ChangesOnly [.regs] s t) (a : Addr) :
    ChangesOnly [.regs, .pc] s (t.setPc a) :=
  (h.mono (by simp)).trans ((t.changesOnly_setPc a).mono (by simp))

/-- An instruction that only writes `b` to `V[x]` completes, and changes that register and `pc` only. -/
theorem exec_of_setReg {x : RegIx} {b : Byte} (h : exec i s = finish .next (s.setReg x b)) :
    ∃ t, exec i s = .next t ∧ t.reg x = b ∧ (∀ r, r ≠ x → t.reg r = s.reg r) ∧
      t.pc = s.pc + 2 ∧ ChangesOnly [.regs, .pc] s t := by
  refine ⟨_, h.trans (finish_next _), ?_, fun r hr => ?_, rfl, (s.changesOnly_setReg x b).setPc _⟩
  · simp
  · simp [State.reg_setReg_ne, hr]

/-- An instruction that writes a result to `V[x]` and then a flag to VF completes; VF holds the flag even
when `x = F` (R171), and nothing but the two registers and `pc` changes. -/
theorem exec_of_writeResultThenFlag {x : RegIx} {result flag : Byte}
    (h : exec i s = finish .next (s.writeResultThenFlag x result flag)) :
    ∃ t, exec i s = .next t ∧ t.reg VF = flag ∧ (x ≠ VF → t.reg x = result) ∧
      (∀ r, r ≠ x → r ≠ VF → t.reg r = s.reg r) ∧ t.pc = s.pc + 2 ∧
      ChangesOnly [.regs, .pc] s t := by
  refine ⟨_, h.trans (finish_next _), ?_, fun hx => ?_, fun r hrx hrf => ?_, rfl,
    (s.changesOnly_writeResultThenFlag x result flag).setPc _⟩
  · simp [State.reg_writeResultThenFlag]
  · simp [State.reg_writeResultThenFlag, hx]
  · simp [State.reg_writeResultThenFlag, hrx, hrf]

/-! ### MOV (R172) -/

theorem decode_packXYN_mov (x y : RegIx) : decode (packXYN 0x8 x y 0x0) = .instr (.mov x y) := by
  simp [decode, decodeAlu]

theorem exec_mov (x y : RegIx) (s : State) :
    exec (.mov x y) s = finish .next (s.setReg x (s.reg y)) := rfl

/-- Settles O32: MOV is one register write, of the old `V[y]`. -/
theorem movCopiesARegister : Obligations.MovCopiesARegister :=
  fun x y s => ⟨decode_packXYN_mov x y, exec_of_setReg (exec_mov x y s)⟩

/-! ### SUB (R177) -/

theorem decode_packXYN_subReg (x y : RegIx) :
    decode (packXYN 0x8 x y 0x5) = .instr (.subReg x y) := by
  simp [decode, decodeAlu]

theorem exec_subReg (x y : RegIx) (s : State) :
    exec (.subReg x y) s = finish .next
      (s.writeResultThenFlag x (s.reg x - s.reg y) (notBorrowFlag (s.reg x) (s.reg y))) := rfl

theorem notBorrowFlag_eq (a b : Byte) :
    notBorrowFlag a b = if b.toNat > a.toNat then 0 else 1 := by
  unfold notBorrowFlag flagByte
  by_cases h : b.toNat > a.toNat <;> simp [h]

/-- The stored difference over the integers: reduced mod 256 into 0 to 255. -/
theorem toNat_sub_eq_emod (a b : Byte) :
    ((a - b).toNat : Int) = (a.toNat - b.toNat : Int) % 256 := by
  have ha := a.isLt
  have hb := b.isLt
  rw [BitVec.toNat_sub]
  omega

/-- Settles O35: SUB writes the difference and then the flag, and the two are as the rule says. -/
theorem subWritesTheDifferenceThenNotBorrow :
    Obligations.SubWritesTheDifferenceThenNotBorrow := by
  intro x y s
  obtain ⟨t, hexec, hflag, hresult, hrest⟩ := exec_of_writeResultThenFlag (exec_subReg x y s)
  refine ⟨decode_packXYN_subReg x y, t, hexec, ?_, fun hx => ?_, hrest⟩
  · rw [hflag, notBorrowFlag_eq]
  · rw [hresult hx, toNat_sub_eq_emod]

/-! ### SRL and SLL (R178, R180) -/

theorem decode_packXYN_srl (x y : RegIx) : decode (packXYN 0x8 x y 0x6) = .instr (.srl x y) := by
  simp [decode, decodeAlu]

theorem decode_packXYN_sll (x y : RegIx) : decode (packXYN 0x8 x y 0xE) = .instr (.sll x y) := by
  simp [decode, decodeAlu]

theorem exec_srl (x y : RegIx) (s : State) :
    exec (.srl x y) s = finish .next
      (s.writeResultThenFlag x (s.reg x >>> 1) (shiftedOutLow (s.reg x))) := rfl

theorem exec_sll (x y : RegIx) (s : State) :
    exec (.sll x y) s = finish .next
      (s.writeResultThenFlag x (s.reg x <<< 1) (shiftedOutHigh (s.reg x))) := rfl

theorem toNat_shiftedOutLow (v : Byte) : (shiftedOutLow v).toNat = v.toNat % 2 := by
  simp [shiftedOutLow, Nat.and_one_is_mod]

theorem toNat_shiftedOutHigh (v : Byte) : (shiftedOutHigh v).toNat = v.toNat / 128 := by
  have hbit : v.toNat / 128 < 2 := Nat.div_lt_of_lt_mul v.isLt
  simp [shiftedOutHigh, Nat.and_one_is_mod, Nat.shiftRight_eq_div_pow, Nat.mod_eq_of_lt hbit]

/-- Settles O37: each shift writes the shifted `V[x]` and then the bit shifted out. -/
theorem shiftsMoveByOneThenWriteTheBitShiftedOut :
    Obligations.ShiftsMoveByOneThenWriteTheBitShiftedOut := by
  intro x y s
  refine ⟨decode_packXYN_srl x y, decode_packXYN_sll x y, ?srl, ?sll⟩
  case srl =>
    obtain ⟨t, hexec, hflag, hresult, hrest⟩ := exec_of_writeResultThenFlag (exec_srl x y s)
    refine ⟨t, hexec, ?_, fun hx => ?_, hrest⟩
    · rw [hflag, toNat_shiftedOutLow]
    · rw [hresult hx, BitVec.toNat_ushiftRight, Nat.shiftRight_one]
  case sll =>
    obtain ⟨t, hexec, hflag, hresult, hrest⟩ := exec_of_writeResultThenFlag (exec_sll x y s)
    refine ⟨t, hexec, ?_, fun hx => ?_, hrest⟩
    · rw [hflag, toNat_shiftedOutHigh]
    · rw [hresult hx, BitVec.toNat_shiftLeft, Nat.shiftLeft_eq]

end Sys2Proof.Machine
end

section
/-!
PROOFS. The Control family (46_control_family.md): the instructions on `I`, DT and ST that write one part
of the state (R221, R223, R224, R226), and the entry into the key wait (R222).
-/

namespace Sys2Proof.Machine

variable {s t : State}

/-! ### Frames of `I <- a`, `DT <- b`, `ST <- b` and of entering the wait -/

theorem State.changesOnly_setI (s : State) (a : Addr) : ChangesOnly [.i] s (s.setI a) := by
  intro p hp
  cases p
  case i => simp at hp
  case mem | regs | key => exact fun _ => rfl
  all_goals rfl

theorem State.changesOnly_setDT (s : State) (b : Byte) : ChangesOnly [.dt] s (s.setDT b) := by
  intro p hp
  cases p
  case dt => simp at hp
  case mem | regs | key => exact fun _ => rfl
  all_goals rfl

theorem State.changesOnly_setST (s : State) (b : Byte) : ChangesOnly [.st] s (s.setST b) := by
  intro p hp
  cases p
  case st => simp at hp
  case mem | regs | key => exact fun _ => rfl
  all_goals rfl

theorem State.changesOnly_startWait (s : State) (r : RegIx) :
    ChangesOnly [.run, .awaitReg] s (s.startWait r) := by
  intro p hp
  cases p
  case run | awaitReg => simp at hp
  case mem | regs | key => exact fun _ => rfl
  all_goals rfl

/-- Moving `pc` after a change of the one part `p` adds `pc` to the frame. -/
theorem ChangesOnly.singleton_setPc {p : StatePart} (h : ChangesOnly [p] s t) (a : Addr) :
    ChangesOnly [p, .pc] s (t.setPc a) :=
  (h.mono (by simp)).trans ((t.changesOnly_setPc a).mono (by simp))

/-! ### LD_F_VX (R226) -/

theorem decode_packXKK_ldFVx (x : RegIx) : decode (packXKK 0xF x 0x29) = .instr (.ldFVx x) := by
  simp [decode, decodeControl]

theorem exec_ldFVx (x : RegIx) (s : State) :
    exec (.ldFVx x) s = finish .next (s.setI (glyphAddr (s.lowNibble x))) := rfl

theorem State.toNat_lowNibble (s : State) (x : RegIx) :
    (s.lowNibble x).toNat = (s.reg x).toNat % 16 := by
  simp [State.lowNibble]

/-- The last glyph begins at 75, so the 12-bit address does not wrap. -/
theorem toNat_glyphAddr (n : Nibble) : (glyphAddr n).toNat = 5 * n.toNat := by
  have hn := n.isLt
  rw [glyphAddr, BitVec.toNat_ofNat]
  omega

/-- Settles O30: LD_F_VX is one write of `I`, of the glyph's address, which never wraps. -/
theorem fontAddressIsFiveTimesTheLowNibble : Obligations.FontAddressIsFiveTimesTheLowNibble := by
  intro x s
  refine ⟨decode_packXKK_ldFVx x, _, (exec_ldFVx x s).trans (finish_next _), ?_, rfl,
    (s.changesOnly_setI _).singleton_setPc _⟩
  rw [State.setPc_i, State.setI_i, toNat_glyphAddr, State.toNat_lowNibble, Nat.zero_add]

/-! ### LD_VX_DT, LD_DT_VX and LD_ST_VX (R221, R223, R224) -/

theorem decode_packXKK_ldVxDt (x : RegIx) : decode (packXKK 0xF x 0x07) = .instr (.ldVxDt x) := by
  simp [decode, decodeControl]

theorem decode_packXKK_ldDtVx (x : RegIx) : decode (packXKK 0xF x 0x15) = .instr (.ldDtVx x) := by
  simp [decode, decodeControl]

theorem decode_packXKK_ldStVx (x : RegIx) : decode (packXKK 0xF x 0x18) = .instr (.ldStVx x) := by
  simp [decode, decodeControl]

theorem exec_ldVxDt (x : RegIx) (s : State) :
    exec (.ldVxDt x) s = finish .next (s.setReg x s.dt) := rfl

theorem exec_ldDtVx (x : RegIx) (s : State) :
    exec (.ldDtVx x) s = finish .next (s.setDT (s.reg x)) := rfl

theorem exec_ldStVx (x : RegIx) (s : State) :
    exec (.ldStVx x) s = finish .next (s.setST (s.reg x)) := rfl

/-- Settles O40: each is one write, of a register, of DT or of ST, and then `pc` moves on. -/
theorem timerInstructionsMoveTimersAndRegisters :
    Obligations.TimerInstructionsMoveTimersAndRegisters := by
  intro x s
  refine ⟨decode_packXKK_ldVxDt x, decode_packXKK_ldDtVx x, decode_packXKK_ldStVx x,
    exec_of_setReg (exec_ldVxDt x s), ?dt, ?st⟩
  case dt =>
    exact ⟨_, (exec_ldDtVx x s).trans (finish_next _), rfl, rfl,
      (s.changesOnly_setDT _).singleton_setPc _⟩
  case st =>
    exact ⟨_, (exec_ldStVx x s).trans (finish_next _), rfl, rfl,
      (s.changesOnly_setST _).singleton_setPc _⟩

/-! ### LD_VX_K (R222) -/

theorem decode_packXKK_ldVxK (x : RegIx) : decode (packXKK 0xF x 0x0A) = .instr (.ldVxK x) := by
  simp [decode, decodeControl]

theorem exec_ldVxK (x : RegIx) (s : State) : exec (.ldVxK x) s = .next (s.startWait x) := rfl

/-- Settles O41: LD_VX_K is `startWait`, which reads no key; the later cycle is the key wait's own rule
(`keyWaitTakesTheLowestPressedKey`) in that state, whose keys and `pc` are those of `s`. -/
theorem keyWaitInstructionOnlyEntersTheWait :
    Obligations.KeyWaitInstructionOnlyEntersTheWait := by
  intro x s
  refine ⟨decode_packXKK_ldVxK x, s.startWait x, exec_ldVxK x s, rfl, rfl,
    s.changesOnly_startWait x, fun k hdown hlow => ?_⟩
  obtain ⟨hpressed, -⟩ := keyWaitTakesTheLowestPressedKey (s.startWait x) rfl
  obtain ⟨u, hcycle, hkey, hregs, hpc, hrun, hframe⟩ := hpressed k hdown hlow
  have hpc' : u.pc = s.pc + 2 := BitVec.eq_of_toNat_eq (by simpa [BitVec.toNat_add] using hpc)
  exact ⟨u, hcycle, hkey, hrun, hpc', hframe, hregs⟩

end Sys2Proof.Machine
end

section
/-!
PROOFS. The tick port (60_exceptions.md R260): how one count moves a timer, and the step that takes a tick.
-/

namespace Sys2Proof.Machine

/-- The truncated subtraction of `Nat` is R260's count: it stops at 0. -/
theorem toNat_countDown (b : Byte) : (countDown b).toNat = b.toNat - 1 := by
  unfold countDown
  split
  case isTrue hzero => simp [hzero]
  case isFalse hpos => exact BitVec.toNat_sub_of_le (by bv_omega)

/-- Settles O14: the step takes the event off the list and counts both timers; the two frames compose. -/
theorem tickCountsBothTimersDownToZero : Obligations.TickCountsBothTimersDownToZero := by
  intro s es hev
  have hstep : step s = .next s.popEvent.tick := step_of_events_cons hev
  have hdt : s.popEvent.tick.dt.toNat = s.dt.toNat - 1 := toNat_countDown s.dt
  have hst : s.popEvent.tick.st.toNat = s.st.toNat - 1 := toNat_countDown s.st
  have hframe : ChangesOnly [.dt, .st, .events] s s.popEvent.tick :=
    s.popEvent.changesOnly_tick.of_popEvent.mono (by simp)
  refine ⟨_, hstep, fun _ => hdt, fun hzero => ?_, fun _ => hst, fun hzero => ?_, ?_, hframe⟩
  · rw [hdt, hzero]
  · rw [hst, hzero]
  · simp [hev]

end Sys2Proof.Machine
end

section
/-!
PROOFS. The decoder and the encoder as inverses of each other, the opcode table, and the words no
instruction stands for (30_encoding.md sections 1 to 4).
-/

namespace Sys2Proof.Machine

/-! ### Decoding an encoded instruction -/

/-- Settles O1: the fields of a packed word are its operands, and every selecting field is the one its
family's decoder tests; SYS is reached because the well-formed `nnn` is neither 0x0E0 nor 0x0EE. -/
theorem encodeThenDecodeIsTheInstruction : Obligations.EncodeThenDecodeIsTheInstruction := by
  intro i hwf
  cases i
  case sys nnn =>
    obtain ⟨hcls, hret⟩ : nnn ≠ 0x0E0#12 ∧ nnn ≠ 0x0EE#12 := by simpa [Instr.wellFormed] using hwf
    simp [encode, decode, decodeMachine, hcls, hret]
  case cls | ret => rfl
  case mov | orReg | andReg | xorReg | addReg | subReg | srl | subnReg | sll =>
    simp [encode, decode, decodeAlu]
  case skp | sknp => simp [encode, decode, decodeKey]
  case ldVxDt | ldVxK | ldDtVx | ldStVx | addIVx | ldFVx | ldBVx | ldMemVx | ldVxMem =>
    simp [encode, decode, decodeControl]
  all_goals simp [encode, decode]

/-! ### A word put together again from its fields -/

variable {w : Word} {t : Nibble}

theorem packNNN_of_fields {a : Addr} (ht : fieldTop w = t) (ha : fieldNNN w = a) :
    packNNN t a = w := by
  rw [← ht, ← ha, packNNN_fields]

theorem packXKK_of_fields {kk : Byte} (ht : fieldTop w = t) (hk : fieldKK w = kk) :
    packXKK t (fieldX w) kk = w := by
  rw [← ht, ← hk, packXKK_fields]

theorem packXYN_of_fields {n : Nibble} (ht : fieldTop w = t) (hn : fieldN w = n) :
    packXYN t (fieldX w) (fieldY w) n = w := by
  rw [← ht, ← hn, packXYN_fields]

/-! ### Encoding a decoded word -/

theorem encode_of_decodeMachine {i : Instr} (ht : fieldTop w = 0x0)
    (h : decodeMachine w = .instr i) : encode i = w ∧ i.wellFormed = true := by
  unfold decodeMachine at h
  split at h
  · cases h
    exact ⟨(packNNN_of_fields ht ‹_› : packNNN 0x0 0x0E0 = w), rfl⟩
  · split at h <;> cases h
    · exact ⟨(packNNN_of_fields ht ‹_› : packNNN 0x0 0x0EE = w), rfl⟩
    · exact ⟨packNNN_of_fields ht rfl, by simp [Instr.wellFormed, *]⟩

theorem encode_of_decodeAlu {i : Instr} (ht : fieldTop w = 0x8) (h : decodeAlu w = .instr i) :
    encode i = w ∧ i.wellFormed = true := by
  unfold decodeAlu at h
  split_ifs at h <;> cases h
  all_goals exact ⟨packXYN_of_fields ht ‹_›, rfl⟩

theorem encode_of_decodeKey {i : Instr} (ht : fieldTop w = 0xE) (h : decodeKey w = .instr i) :
    encode i = w ∧ i.wellFormed = true := by
  unfold decodeKey at h
  split_ifs at h <;> cases h
  all_goals exact ⟨packXKK_of_fields ht ‹_›, rfl⟩

theorem encode_of_decodeControl {i : Instr} (ht : fieldTop w = 0xF)
    (h : decodeControl w = .instr i) : encode i = w ∧ i.wellFormed = true := by
  unfold decodeControl at h
  split_ifs at h <;> cases h
  all_goals exact ⟨packXKK_of_fields ht ‹_›, rfl⟩

/-- The sixteen top nibbles: the four families, and the single-purpose codes by format. -/
theorem nibble_cases : ∀ t : Nibble, t = 0x0 ∨ t = 0x8 ∨ t = 0xE ∨ t = 0xF ∨
    (t = 0x1 ∨ t = 0x2 ∨ t = 0xA ∨ t = 0xB) ∨
    (t = 0x3 ∨ t = 0x4 ∨ t = 0x6 ∨ t = 0x7 ∨ t = 0xC) ∨ (t = 0x5 ∨ t = 0x9 ∨ t = 0xD) := by
  decide

theorem decode_of_machine (h : fieldTop w = 0x0) : decode w = decodeMachine w := by
  simp [decode, h]

theorem decode_of_alu (h : fieldTop w = 0x8) : decode w = decodeAlu w := by simp [decode, h]

theorem decode_of_key (h : fieldTop w = 0xE) : decode w = decodeKey w := by simp [decode, h]

theorem decode_of_control (h : fieldTop w = 0xF) : decode w = decodeControl w := by
  simp [decode, h]

/-- The decoder by the top nibble (30_encoding.md R83): a family's own decoder, or a single-purpose
instruction whose encoding is the word. -/
theorem decode_cases (w : Word) :
    (fieldTop w = 0x0 ∧ decode w = decodeMachine w) ∨
    (fieldTop w = 0x8 ∧ decode w = decodeAlu w) ∨
    (fieldTop w = 0xE ∧ decode w = decodeKey w) ∨
    (fieldTop w = 0xF ∧ decode w = decodeControl w) ∨
    ∃ i, decode w = .instr i ∧ encode i = w ∧ i.wellFormed = true := by
  obtain h | h | h | h | hNNN | hXKK | hXYN := nibble_cases (fieldTop w)
  · exact .inl ⟨h, decode_of_machine h⟩
  · exact .inr (.inl ⟨h, decode_of_alu h⟩)
  · exact .inr (.inr (.inl ⟨h, decode_of_key h⟩))
  · exact .inr (.inr (.inr (.inl ⟨h, decode_of_control h⟩)))
  all_goals refine .inr (.inr (.inr (.inr ?_)))
  · obtain h | h | h | h := hNNN
    all_goals refine ⟨_, by simp only [decode, h]; rfl, ?_, rfl⟩
    all_goals exact packNNN_of_fields h rfl
  · obtain h | h | h | h | h := hXKK
    all_goals refine ⟨_, by simp only [decode, h]; rfl, ?_, rfl⟩
    all_goals exact packXKK_of_fields h rfl
  · obtain h | h | h := hXYN
    all_goals refine ⟨_, by simp only [decode, h]; rfl, ?_, rfl⟩
    all_goals exact packXYN_of_fields h rfl

/-- Settles O2: each leaf of the decoder has fixed the selecting fields and taken the others as operands,
so the encoder puts the same fields together again. -/
theorem decodeThenEncodeIsTheWord : Obligations.DecodeThenEncodeIsTheWord := by
  intro w i h
  obtain ⟨ht, hd⟩ | ⟨ht, hd⟩ | ⟨ht, hd⟩ | ⟨ht, hd⟩ | ⟨j, hd, hj⟩ := decode_cases w
  all_goals rw [hd] at h
  · exact encode_of_decodeMachine ht h
  · exact encode_of_decodeAlu ht h
  · exact encode_of_decodeKey ht h
  · exact encode_of_decodeControl ht h
  · cases h
    exact hj

/-! ### The opcode table (30_encoding.md R90) -/

theorem encode_matchesRow (i : Instr) : encode i &&& (tableRow i).2 = (tableRow i).1 := by
  open Laws.MatchesRow in
  cases i
  exacts [sys _, cls, ret, jp _, call _, seImm _ _, sneImm _ _, seReg _ _ _, ldImm _ _,
    addImm _ _, mov _ _, orReg _ _, andReg _ _, xorReg _ _, addReg _ _, subReg _ _, srl _ _,
    subnReg _ _, sll _ _, sneReg _ _ _, ldI _, jpV0 _, rnd _ _, drw _ _ _, skp _, sknp _,
    ldVxDt _, ldVxK _, ldDtVx _, ldStVx _, addIVx _, ldFVx _, ldBVx _, ldMemVx _, ldVxMem _]

theorem top_of_masked {c : Word} (h : w &&& 0xF000 = c) : w.toNat / 4096 = c.toNat / 4096 := by
  have hpack : packNNN (fieldTop w) 0#12 = c := by rw [← Laws.packNNN_masked, packNNN_fields, h]
  rw [← toNat_fieldTop, ← toNat_fieldTop, ← hpack, fieldTop_packNNN]

theorem top_and_low_nibble_of_masked {c : Word} (h : w &&& 0xF00F = c) :
    w.toNat / 4096 = c.toNat / 4096 ∧ w.toNat % 16 = c.toNat % 16 := by
  have hpack : packXYN (fieldTop w) 0#4 0#4 (fieldN w) = c := by
    rw [← Laws.packXYN_masked_sub, packXYN_fields, h]
  rw [← toNat_fieldTop, ← toNat_fieldTop, ← toNat_fieldN, ← toNat_fieldN, ← hpack]
  simp only [fieldTop_packXYN, fieldN_packXYN, and_self]

theorem top_and_low_byte_of_masked {c : Word} (h : w &&& 0xF0FF = c) :
    w.toNat / 4096 = c.toNat / 4096 ∧ w.toNat % 256 = c.toNat % 256 := by
  have hpack : packXKK (fieldTop w) 0#4 (fieldKK w) = c := by
    rw [← Laws.packXKK_masked_sub, packXKK_fields, h]
  rw [← toNat_fieldTop, ← toNat_fieldTop, ← toNat_fieldKK, ← toNat_fieldKK, ← hpack]
  simp only [fieldTop_packXKK, fieldKK_packXKK, and_self]

/-- A word that matches the row of `j`, SYS apart, decodes to an instruction of that row: the row's mask
covers every field the decoder tests on the way there. -/
theorem decode_of_matchesRow {j : Instr} (hj : ∀ nnn, j ≠ .sys nnn)
    (h : w &&& (tableRow j).2 = (tableRow j).1) :
    ∃ i, decode w = .instr i ∧ tableRow i = tableRow j := by
  cases j
  case sys nnn => exact absurd rfl (hj nnn)
  case cls | ret =>
    obtain rfl : w = _ := (BitVec.and_allOnes (x := w)).symm.trans h
    exact ⟨_, rfl, rfl⟩
  case mov | orReg | andReg | xorReg | addReg | subReg | srl | subnReg | sll =>
    obtain ⟨htop, hlow⟩ := top_and_low_nibble_of_masked h
    simp [decode, decodeAlu, fieldTop_eq_iff, fieldN_eq_iff, htop, hlow, tableRow]
  case skp | sknp =>
    obtain ⟨htop, hlow⟩ := top_and_low_byte_of_masked h
    simp [decode, decodeKey, fieldTop_eq_iff, fieldKK_eq_iff, htop, hlow, tableRow]
  case ldVxDt | ldVxK | ldDtVx | ldStVx | addIVx | ldFVx | ldBVx | ldMemVx | ldVxMem =>
    obtain ⟨htop, hlow⟩ := top_and_low_byte_of_masked h
    simp [decode, decodeControl, fieldTop_eq_iff, fieldKK_eq_iff, htop, hlow, tableRow]
  all_goals
    have htop := top_of_masked h
    simp [decode, fieldTop_eq_iff, htop, tableRow]

/-- SYS's row, after the two words that CLS and RET take from it. -/
theorem decode_sys (h : w &&& 0xF000 = 0x0000) (hcls : w ≠ 0x00E0) (hret : w ≠ 0x00EE) :
    decode w = .instr (.sys (fieldNNN w)) := by
  have htop : fieldTop w = 0x0 := (fieldTop_eq_iff w _).mpr (top_of_masked h)
  have hnnn : ∀ a, fieldNNN w = a → packNNN 0x0 a = w := fun a ha => packNNN_of_fields htop ha
  have hcls' : fieldNNN w ≠ 0x0E0#12 := fun ha => hcls (hnnn _ ha).symm
  have hret' : fieldNNN w ≠ 0x0EE#12 := fun ha => hret (hnnn _ ha).symm
  rw [decode_of_machine htop, decodeMachine, if_neg hcls', if_neg hret']

/-- Settles O3: a decoded word is its instruction's encoding, which matches the row; a word that matches a
row carries the fields that lead the decoder to it; and SYS is what the Machine family leaves. -/
theorem decodeAgreesWithTheOpcodeTable : Obligations.DecodeAgreesWithTheOpcodeTable := by
  refine ⟨fun w i h => ?_, fun w j hj h => decode_of_matchesRow hj h,
    fun w h hcls hret => decode_sys h hcls hret⟩
  obtain ⟨rfl, -⟩ := decodeThenEncodeIsTheWord w i h
  exact encode_matchesRow i

/-! ### The illegal words (30_encoding.md R91) -/

variable {w' : Word} {f : Family}

theorem decodeAlu_unrecognized (h : decodeAlu w = .unrecognized f w') :
    w' = w ∧ f = .alu ∧ w.toNat % 16 ∈ [0x8, 0x9, 0xA, 0xB, 0xC, 0xD, 0xF] := by
  unfold decodeAlu at h
  simp only [fieldN_eq_iff, BitVec.toNat_ofNat, Nat.reducePow, Nat.reduceMod] at h
  split_ifs at h
  cases h
  exact ⟨rfl, rfl, by simp; omega⟩

theorem decodeKey_unrecognized (h : decodeKey w = .unrecognized f w') :
    w' = w ∧ f = .key ∧ w.toNat % 256 ∉ [0x9E, 0xA1] := by
  unfold decodeKey at h
  simp only [fieldKK_eq_iff, BitVec.toNat_ofNat, Nat.reducePow, Nat.reduceMod] at h
  split_ifs at h
  cases h
  exact ⟨rfl, rfl, by simp; omega⟩

theorem decodeControl_unrecognized (h : decodeControl w = .unrecognized f w') :
    w' = w ∧ f = .control ∧
      w.toNat % 256 ∉ [0x07, 0x0A, 0x15, 0x18, 0x1E, 0x29, 0x33, 0x55, 0x65] := by
  unfold decodeControl at h
  simp only [fieldKK_eq_iff, BitVec.toNat_ofNat, Nat.reducePow, Nat.reduceMod] at h
  split_ifs at h
  cases h
  exact ⟨rfl, rfl, by simp; omega⟩

theorem decodeMachine_ne_unrecognized (w w' : Word) (f : Family) :
    decodeMachine w ≠ .unrecognized f w' := by
  unfold decodeMachine
  split_ifs <;> simp

/-- Settles O4: only the three families with sub-opcodes have a leaf `unrecognized`, reached when every
sub-opcode's test fails. -/
theorem unrecognizedWordsAreTheIllegalOnes : Obligations.UnrecognizedWordsAreTheIllegalOnes := by
  intro w w' f
  constructor
  · intro h
    obtain ⟨ht, hd⟩ | ⟨ht, hd⟩ | ⟨ht, hd⟩ | ⟨ht, hd⟩ | ⟨i, hd, -⟩ := decode_cases w
    all_goals rw [hd] at h
    · exact absurd h (decodeMachine_ne_unrecognized w w' f)
    · obtain ⟨hw, hf, hsub⟩ := decodeAlu_unrecognized h
      exact ⟨hw, .inl ⟨hf, (fieldTop_eq_iff w _).mp ht, hsub⟩⟩
    · obtain ⟨hw, hf, hsub⟩ := decodeKey_unrecognized h
      exact ⟨hw, .inr (.inl ⟨hf, (fieldTop_eq_iff w _).mp ht, hsub⟩)⟩
    · obtain ⟨hw, hf, hsub⟩ := decodeControl_unrecognized h
      exact ⟨hw, .inr (.inr ⟨hf, (fieldTop_eq_iff w _).mp ht, hsub⟩)⟩
    · cases h
  · rintro ⟨rfl, ⟨rfl, htop, hsub⟩ | ⟨rfl, htop, hsub⟩ | ⟨rfl, htop, hsub⟩⟩
    · exact decode_of_illegal_alu htop hsub
    · exact decode_of_illegal_key htop hsub
    · exact decode_of_illegal_control htop hsub

/-- Settles O5: the decoder evaluated on each word. -/
theorem sampleWordsDecodeAsWritten : Obligations.SampleWordsDecodeAsWritten := by
  unfold Obligations.SampleWordsDecodeAsWritten
  decide

end Sys2Proof.Machine
end

section
/-!
PROOFS. The four invariants and the constant parameters: the updates a step is made of, and that what every
update keeps every step keeps.
-/

namespace Sys2Proof.Machine

variable {s t u : State} {i : Instr}

/-! ### Updates of data -/

/-- An update that the invariants do not see but in memory's list, which it keeps canonical: `pc`, the
stack, `run`, `fault` and the parameters are as before. -/
structure DataUpdate (s u : State) : Prop where
  pc : u.pc = s.pc
  stack : u.stack = s.stack
  run : u.run = s.run
  fault : u.fault = s.fault
  cfg : u.cfg = s.cfg
  wf : Memory.wf s.cfg s.mem → Memory.wf s.cfg u.mem

theorem DataUpdate.of_mem_eq (hpc : u.pc = s.pc) (hstack : u.stack = s.stack) (hrun : u.run = s.run)
    (hfault : u.fault = s.fault) (hcfg : u.cfg = s.cfg) (hmem : u.mem = s.mem) : DataUpdate s u :=
  ⟨hpc, hstack, hrun, hfault, hcfg, fun h => hmem ▸ h⟩

theorem DataUpdate.setReg (s : State) (x : RegIx) (b : Byte) : DataUpdate s (s.setReg x b) :=
  .of_mem_eq rfl rfl rfl rfl rfl rfl

theorem DataUpdate.popEvent (s : State) : DataUpdate s s.popEvent :=
  .of_mem_eq rfl rfl rfl rfl rfl rfl

theorem DataUpdate.tick (s : State) : DataUpdate s s.tick :=
  .of_mem_eq rfl rfl rfl rfl rfl rfl

theorem DataUpdate.setKeyDown (s : State) (k : KeyIx) (p : Bool) : DataUpdate s (s.setKeyDown k p) :=
  .of_mem_eq rfl rfl rfl rfl rfl rfl

theorem DataUpdate.dumpRegs (s : State) (n : Nat) : DataUpdate s (s.dumpRegs n) := by
  have h := s.dumpRegs_eq n
  exact ⟨by rw [h], by rw [h], by rw [h], by rw [h], by rw [h], s.dumpRegs_wf n⟩

theorem DataUpdate.restoreRegs (s : State) (n : Nat) : DataUpdate s (s.restoreRegs n) := by
  rw [s.restoreRegs_eq n]
  exact .of_mem_eq rfl rfl rfl rfl rfl rfl

theorem DataUpdate.storeDigits (s : State) (d : Byte × Byte × Byte) :
    DataUpdate s (s.storeDigits d) :=
  ⟨rfl, rfl, rfl, rfl, rfl, s.storeDigits_wf d⟩

/-- The ways an instruction ends, as far as the invariants see it: `exec_cases` with the instruction's own
writes taken together as one data update. -/
theorem exec_update_cases (h : exec i s = .next t) :
    (∃ k, t = s.raiseFatal k) ∨
    (∃ x, t = s.startWait x) ∨
    (∃ a, s.misaligned a = false ∧ t = s.setPc a) ∨
    (∃ a, s.misaligned a = false ∧ s.stackFull = false ∧ t = (s.push s.returnAddr).setPc a) ∨
    (∃ a rest, s.stack = a :: rest ∧ t = (s.setStack rest).setPc a) ∨
    (∃ d u, (d = 2 ∨ d = 4) ∧ DataUpdate s u ∧ t = u.setPc (u.pc + d)) := by
  obtain ⟨k, rfl⟩ | ⟨x, -, rfl⟩ | ⟨a, ha, -, rfl⟩ | ⟨a, -, ha, hfull, rfl⟩ | ⟨a, rest, -, hs, rfl⟩ |
    ⟨d, hd, u, rfl, hu⟩ := exec_cases h
  · exact .inl ⟨k, rfl⟩
  · exact .inr (.inl ⟨x, rfl⟩)
  · exact .inr (.inr (.inl ⟨a, ha, rfl⟩))
  · exact .inr (.inr (.inr (.inl ⟨a, ha, hfull, rfl⟩)))
  · exact .inr (.inr (.inr (.inr (.inl ⟨a, rest, hs, rfl⟩))))
  · suffices hdata : DataUpdate s u from
      .inr (.inr (.inr (.inr (.inr ⟨d, u, hd, hdata, by rw [hdata.pc]⟩))))
    obtain rfl | ⟨_, _, -, rfl⟩ | ⟨_, _, _, -, -, rfl⟩ | ⟨_, rfl⟩ | ⟨_, -, rfl⟩ | ⟨_, -, rfl⟩ |
      ⟨_, _, -, rfl⟩ | ⟨-, rfl⟩ | ⟨_, _, _, _, _, -, rfl⟩ | ⟨_, -, rfl⟩ | ⟨_, -, rfl⟩ |
      ⟨_, -, rfl⟩ := hu
    -- The first nine updates keep memory's list; the last three are BCD, the dump and the restore.
    iterate 9 exact .of_mem_eq rfl rfl rfl rfl rfl rfl
    · exact .storeDigits _ _
    · exact .dumpRegs _ _
    · exact .restoreRegs _ _

/-! ### What every update keeps, every step keeps -/

/-- `P` is kept by every update that a step is made of. -/
structure KeptByUpdates (P : State → Prop) : Prop where
  data : ∀ {s u : State}, DataUpdate s u → P s → P u
  advance : ∀ {s : State} {d : Addr}, d = 2 ∨ d = 4 → P s → P (s.setPc (s.pc + d))
  jump : ∀ {s : State} {a : Addr}, s.misaligned a = false → P s → P (s.setPc a)
  call : ∀ {s : State}, s.stackFull = false → P s → P (s.push s.returnAddr)
  ret : ∀ {s : State} {a : Addr} {rest : List Addr}, s.stack = a :: rest → P s →
    P ((s.setStack rest).setPc a)
  fatal : ∀ {s : State} (k : FaultKind), P s → P (s.raiseFatal k)
  wait : ∀ {s : State} (x : RegIx), s.run = .running → P s → P (s.startWait x)
  resume : ∀ {s : State}, s.run = .awaitingKey → P s → P s.resume
  load : ∀ {s : State} {image : List Byte}, imageAccepted image = true → P s → P (s.load image)

variable {P : State → Prop}

theorem KeptByUpdates.exec (hP : KeptByUpdates P) (hs : P s) (hrun : s.run = .running)
    (h : exec i s = .next t) : P t := by
  obtain ⟨k, rfl⟩ | ⟨x, rfl⟩ | ⟨a, ha, rfl⟩ | ⟨a, ha, hfull, rfl⟩ | ⟨a, rest, hstack, rfl⟩ |
    ⟨d, u, hd, hdata, rfl⟩ := exec_update_cases h
  · exact hP.fatal k hs
  · exact hP.wait x hrun hs
  · exact hP.jump ha hs
  · exact hP.jump (s := s.push s.returnAddr) ha (hP.call hfull hs)
  · exact hP.ret hstack hs
  · exact hP.advance hd (hP.data hdata hs)

theorem KeptByUpdates.completeWait (hP : KeptByUpdates P) (hs : P s) (hrun : s.run = .awaitingKey) :
    P s.completeWait := by
  obtain ⟨-, hnone⟩ | ⟨k, -, hkey⟩ := completeWait_cases s
  · rwa [hnone]
  · have hset : P (s.setReg s.awaitReg (k.setWidth 8)) := hP.data (.setReg _ _ _) hs
    rw [hkey]
    exact hP.resume hrun (hP.advance (.inl rfl) hset)

theorem KeptByUpdates.loadAny (hP : KeptByUpdates P) (hs : P s) (image : List Byte) :
    P (s.load image) := by
  cases hacc : imageAccepted image
  · rwa [State.load_rejected _ hacc]
  · exact hP.load hacc hs

/-- The induction step of an invariant, over every event and instruction. -/
theorem KeptByUpdates.step (hP : KeptByUpdates P) (hs : P s) (h : step s = .next t) : P t := by
  have hpop : P s.popEvent := hP.data (.popEvent s) hs
  obtain ⟨-, rfl⟩ | ⟨k, p, -, rfl⟩ | ⟨image, -, rfl⟩ | ⟨-, -, rfl⟩ | ⟨-, hrun, rfl⟩ | ⟨-, -, -, rfl⟩ |
    ⟨-, hrun, i, -, hexec⟩ := step_cases h
  · exact hP.data (.tick _) hpop
  · exact hP.data (.setKeyDown _ k p) hpop
  · exact hP.loadAny hpop image
  · exact hpop
  · exact hP.completeWait hpop hrun
  · exact hP.fatal _ hpop
  · exact hP.exec hpop hrun hexec

/-! ### `pc` and the return addresses are even (10_state.md R23) -/

theorem toNat_add_even {a d : Addr} (hd : d = 2 ∨ d = 4) (ha : a.toNat % 2 = 0) :
    (a + d).toNat % 2 = 0 := by
  obtain rfl | rfl := hd <;> rw [BitVec.toNat_add] <;> simp <;> omega

theorem keptByUpdates_pcEven : KeptByUpdates State.PcEven where
  data hdata hs heven := by
    rw [hdata.pc, hdata.stack]
    exact hs (hdata.cfg ▸ heven)
  advance hd hs heven := ⟨toNat_add_even hd (hs heven).1, (hs heven).2⟩
  jump {s a} ha hs heven := by
    have hodd : a.toNat % 2 ≠ 1 := fun hodd =>
      absurd ((s.misaligned_iff a).mpr ⟨heven, hodd⟩) (by simp [ha])
    exact ⟨by simp; omega, (hs heven).2⟩
  call _ hs heven := by
    obtain ⟨hpc, hstack⟩ := hs heven
    refine ⟨hpc, fun a ha => ?_⟩
    obtain rfl | ha := List.mem_cons.mp ha
    · exact toNat_add_even (.inl rfl) hpc
    · exact hstack a ha
  ret {s a rest} hstack hs heven := by
    obtain ⟨-, hs⟩ := hs heven
    rw [hstack] at hs
    exact ⟨hs a List.mem_cons_self, fun b hb => hs b (List.mem_cons_of_mem a hb)⟩
  fatal _ hs := hs
  wait _ _ hs := hs
  resume _ hs := hs
  load {s image} hacc _ _ := by
    rw [State.load_accepted s hacc]
    exact ⟨(by decide : State.reset.pc.toNat % 2 = 0), fun _ ha => absurd ha List.not_mem_nil⟩

/-- Settles O52: every update keeps the addresses even; an accepted jump's target is even by the check, a
return address is `pc + 2`, and RET moves the top of an even stack to `pc`. -/
theorem stepKeepsPcAndReturnAddressesEven : Obligations.StepKeepsPcAndReturnAddressesEven :=
  fun _ _ hs h => keptByUpdates_pcEven.step hs h

/-! ### Memory's canonical form (log entry 7) -/

theorem keptByUpdates_memCanonical : KeptByUpdates State.MemCanonical where
  data hdata hs := by
    rw [State.MemCanonical, hdata.cfg]
    exact hdata.wf hs
  advance _ hs := hs
  jump _ hs := hs
  call _ hs := hs
  ret _ hs := hs
  fatal _ hs := hs
  wait _ _ hs := hs
  resume _ hs := hs
  load {s image} hacc _ := by
    rw [State.load_accepted s hacc]
    exact loadedMemory_wf s.cfg image hacc

/-- Settles O53: memory is written by data updates and by a load only, and both keep the form. -/
theorem stepKeepsMemoryCanonical : Obligations.StepKeepsMemoryCanonical :=
  fun _ _ hs h => keptByUpdates_memCanonical.step hs h

/-! ### `fault` is recorded exactly in Faulted (10_state.md R37) -/

theorem keptByUpdates_faultRecorded : KeptByUpdates State.FaultRecorded where
  data hdata hs := by rwa [State.FaultRecorded, hdata.fault, hdata.run]
  advance _ hs := hs
  jump _ hs := hs
  call _ hs := hs
  ret _ hs := hs
  fatal k _ := by simp [State.FaultRecorded]
  wait x hrun hs := by simpa [State.FaultRecorded, hrun] using hs
  resume hrun hs := by simpa [State.FaultRecorded, hrun] using hs
  load {s image} hacc _ := by
    rw [State.load_accepted s hacc]
    simp [State.FaultRecorded, State.reset]

/-- Settles O54: the fatal stop sets both, a load clears both, and entering or leaving the wait happens
outside Faulted. -/
theorem stepKeepsFaultRecordedExactlyInFaulted :
    Obligations.StepKeepsFaultRecordedExactlyInFaulted :=
  fun _ _ hs h => keptByUpdates_faultRecorded.step hs h

/-! ### The stack's depth (10_state.md R26, R29) -/

theorem keptByUpdates_stackBounded : KeptByUpdates State.StackBounded where
  data hdata hs := by rwa [State.StackBounded, hdata.stack, hdata.cfg]
  advance _ hs := hs
  jump _ hs := hs
  call {s} hfull hs d hd := by
    have hne : s.stack.length ≠ d := fun hlen =>
      absurd (s.stackFull_iff.mpr (hlen ▸ hd)) (by simp [hfull])
    have hle := hs d hd
    simp only [State.push_stack, List.length_cons]
    omega
  ret {s a rest} hstack hs d hd := by
    have hle := hs d hd
    rw [hstack, List.length_cons] at hle
    exact Nat.le_of_succ_le hle
  fatal _ hs := hs
  wait _ _ hs := hs
  resume _ hs := hs
  load {s image} hacc _ d _ := by
    rw [State.load_accepted s hacc]
    exact Nat.zero_le d

/-- Settles O55: only a push lengthens the stack, and it is made on a stack that is not full. -/
theorem stepKeepsTheStackWithinItsDepth : Obligations.StepKeepsTheStackWithinItsDepth :=
  fun _ _ hs h => keptByUpdates_stackBounded.step hs h

/-- Settles O56: the reset state lists no byte, has an empty stack, an even `pc` and no fault. -/
theorem resetMeetsTheInvariants : Obligations.ResetMeetsTheInvariants where
  memCanonical := Memory.wf_reset
  pcEven _ := ⟨rfl, fun _ ha => absurd ha List.not_mem_nil⟩
  faultRecorded := by simp [State.FaultRecorded, State.reset]
  stackBounded d _ := Nat.zero_le d

/-! ### The parameters (00_scope.md R6) -/

theorem keptByUpdates_cfg (c : Config) : KeptByUpdates (fun s => s.cfg = c) where
  data hdata hs := hdata.cfg.trans hs
  advance _ hs := hs
  jump _ hs := hs
  call _ hs := hs
  ret _ hs := hs
  fatal _ hs := hs
  wait _ _ hs := hs
  resume _ hs := hs
  load {s image} hacc hs := by
    rw [State.load_accepted s hacc]
    exact hs

/-- Settles O57: that the parameters have a given value is kept by every update. -/
theorem stepNeverChangesAParameter : Obligations.StepNeverChangesAParameter :=
  fun s _ h => (keptByUpdates_cfg s.cfg).step rfl h

end Sys2Proof.Machine
end

section
/-!
PROOFS. The Machine family and the control transfers (41_machine_family.md, 42_single_purpose.md section 1):
SYS, RET, JP, JP_V0 and CALL, each as one equation per outcome.
-/

namespace Sys2Proof.Machine

variable {i : Instr} {s : State} {a : Addr}

/-! ### The evenness check and the fatal stop -/

theorem State.misaligned_eq_false (h : s.cfg.enforceEvenPc = false ∨ a.toNat % 2 = 0) :
    s.misaligned a = false := by
  obtain h | h := h <;> simp [State.misaligned, h]

theorem State.misaligned_eq_true (heven : s.cfg.enforceEvenPc = true) (hodd : a.toNat % 2 = 1) :
    s.misaligned a = true :=
  (s.misaligned_iff a).mpr ⟨heven, hodd⟩

/-- An instruction that takes the fatal stop `k` answers a Faulted state with that kind, and changes nothing
else. -/
theorem exec_of_raiseFatal {k : FaultKind} (h : exec i s = .next (s.raiseFatal k)) :
    ∃ t, exec i s = .next t ∧ t.run = .faulted ∧ t.fault = some k ∧
      ChangesOnly [.run, .fault] s t :=
  ⟨_, h, rfl, rfl, s.changesOnly_raiseFatal k⟩

/-! ### SYS (R131) -/

theorem exec_sys (nnn : Addr) (s : State) : exec (.sys nnn) s =
    .next (if s.cfg.sysAsNop then s.setPc (s.pc + 2) else s.raiseFatal .unsupportedSys) := by
  simp only [exec, execSys]
  split <;> rfl

/-- Settles O19: SYS tests `SYS_AS_NOP` and nothing else. -/
theorem sysFaultsByDefaultOrIsANop : Obligations.SysFaultsByDefaultOrIsANop := by
  intro nnn s
  refine ⟨fun hcls hret => ?_, fun hfault => ?_, fun hnop => ?_⟩
  · exact encodeThenDecodeIsTheInstruction (.sys nnn) (by simpa [Instr.wellFormed] using ⟨hcls, hret⟩)
  · exact exec_of_raiseFatal (by simp [exec_sys, hfault])
  · exact ⟨_, by rw [exec_sys, if_pos hnop], rfl, s.changesOnly_setPc _⟩

/-! ### RET (R133) -/

theorem exec_ret_of_cons {rest : List Addr} (h : s.stack = a :: rest) :
    exec .ret s = .next ((s.setStack rest).setPc a) := by
  simp [exec, execRet, h]

theorem exec_ret_of_nil (h : s.stack = []) : exec .ret s = .next (s.raiseFatal .stackUnderflow) := by
  simp [exec, execRet, h]

theorem State.changesOnly_setStack (s : State) (l : List Addr) :
    ChangesOnly [.stack] s (s.setStack l) := by
  intro p hp
  cases p
  case stack => simp at hp
  case mem | regs | key => exact fun _ => rfl
  all_goals rfl

/-- The frame of CALL and RET: the stack, and then `pc`. -/
theorem State.changesOnly_setStack_setPc (s : State) (l : List Addr) (a : Addr) :
    ChangesOnly [.pc, .stack] s ((s.setStack l).setPc a) :=
  ((s.changesOnly_setStack l).singleton_setPc a).mono (by simp)

/-- Settles O21: RET on either form of the stack. -/
theorem retPopsOrUnderflows : Obligations.RetPopsOrUnderflows :=
  ⟨encodeThenDecodeIsTheInstruction .ret rfl, fun s =>
    ⟨fun _ rest h => ⟨_, exec_ret_of_cons h, rfl, rfl, s.changesOnly_setStack_setPc rest _⟩,
      fun h => exec_of_raiseFatal (exec_ret_of_nil h)⟩⟩

/-! ### JP and JP_V0 (R141, R150) -/

theorem exec_jp (nnn : Addr) (s : State) : exec (.jp nnn) s = jumpChecked nnn s := rfl

theorem exec_jpV0 (nnn : Addr) (s : State) :
    exec (.jpV0 nnn) s = jumpChecked (s.offsetTarget nnn) s := rfl

theorem State.toNat_offsetTarget (s : State) (nnn : Addr) :
    (s.offsetTarget nnn).toNat = (nnn.toNat + (s.reg 0x0#4).toNat) % 4096 := by
  have hreg := (s.reg 0x0#4).isLt
  rw [State.offsetTarget, BitVec.toNat_add, BitVec.toNat_setWidth]
  omega

theorem exec_of_jumpChecked (h : exec i s = jumpChecked a s) :
    (s.cfg.enforceEvenPc = false ∨ a.toNat % 2 = 0 → ∃ t, exec i s = .next t ∧
      t.pc.toNat = a.toNat ∧ ChangesOnly [.pc] s t) ∧
    (s.cfg.enforceEvenPc = true → a.toNat % 2 = 1 → ∃ t, exec i s = .next t ∧ t.run = .faulted ∧
      t.fault = some .misalignedPc ∧ ChangesOnly [.run, .fault] s t) := by
  rw [jumpChecked_eq] at h
  refine ⟨fun hok => ⟨s.setPc a, ?_, rfl, s.changesOnly_setPc a⟩, fun heven hodd => ?_⟩
  · simpa [State.misaligned_eq_false hok] using h
  · exact exec_of_raiseFatal (by simpa [State.misaligned_eq_true heven hodd] using h)

/-- Settles O22: both are the checked jump, to `nnn` and to the offset target. -/
theorem jumpsGoToTheirTargetOrFaultOnAnOddOne :
    Obligations.JumpsGoToTheirTargetOrFaultOnAnOddOne := by
  intro nnn s
  refine ⟨encodeThenDecodeIsTheInstruction (.jp nnn) rfl,
    encodeThenDecodeIsTheInstruction (.jpV0 nnn) rfl, fun i target hi => ?_⟩
  obtain ⟨rfl, rfl⟩ | ⟨rfl, rfl⟩ := hi
  · exact exec_of_jumpChecked (exec_jp nnn s)
  · rw [← s.toNat_offsetTarget]
    exact exec_of_jumpChecked (exec_jpV0 nnn s)

/-! ### CALL (R142) -/

/-- CALL's checks in their order (60_exceptions.md R256). -/
theorem exec_call (nnn : Addr) (s : State) : exec (.call nnn) s =
    .next (if s.misaligned nnn then s.raiseFatal .misalignedPc
      else if s.stackFull then s.raiseFatal .stackOverflow
      else (s.push s.returnAddr).setPc nnn) := by
  simp only [exec, execCall]
  split
  · rfl
  · split <;> rfl

theorem State.stackFull_eq_false (h : s.cfg.stackDepth ≠ some s.stack.length) :
    s.stackFull = false := by
  rwa [Ne, ← State.stackFull_iff, Bool.not_eq_true] at h

theorem exec_call_accepted (hok : s.cfg.enforceEvenPc = false ∨ a.toNat % 2 = 0)
    (hroom : s.cfg.stackDepth ≠ some s.stack.length) :
    exec (.call a) s = .next ((s.push s.returnAddr).setPc a) := by
  simp [exec_call, State.misaligned_eq_false hok, State.stackFull_eq_false hroom]

theorem State.returnAddr_eq_ofNat (s : State) :
    s.returnAddr = BitVec.ofNat 12 ((s.pc.toNat + 2) % 4096) := by
  apply BitVec.eq_of_toNat_eq
  simp [State.returnAddr, BitVec.toNat_add]

/-- Settles O23: the three outcomes of CALL's checks. -/
theorem callPushesTheNextAddressOrFaults : Obligations.CallPushesTheNextAddressOrFaults := by
  intro nnn s
  refine ⟨encodeThenDecodeIsTheInstruction (.call nnn) rfl, fun hok hroom => ?accepted,
    fun heven hodd => ?odd, fun hok hfull => ?full⟩
  case accepted =>
    refine ⟨_, exec_call_accepted hok hroom, rfl, ?_, s.changesOnly_setStack_setPc _ _⟩
    simp [State.returnAddr_eq_ofNat]
  case odd =>
    exact exec_of_raiseFatal (by simp [exec_call, State.misaligned_eq_true heven hodd])
  case full =>
    have hfull := s.stackFull_iff.mpr hfull
    exact exec_of_raiseFatal (by simp [exec_call, State.misaligned_eq_false hok, hfull])

/-- Settles O24: CALL leaves the return address on top of the old stack, and RET takes both back. -/
theorem callThenRetComesBack : Obligations.CallThenRetComesBack :=
  fun _ _ hok hroom => ⟨_, exec_call_accepted hok hroom, exec_ret_of_cons rfl⟩

end Sys2Proof.Machine
end

section
/-!
PROOFS. The instructions that skip or that write one register or `I` (42_single_purpose.md sections 2 to 4,
43_alu_family.md, 45_key_family.md, 46_control_family.md section 3), each by the shape of its end.
-/

namespace Sys2Proof.Machine

variable {i : Instr} {s : State}

/-! ### SE_REG and SNE_REG (R145, R148) -/

theorem exec_seReg (x y : RegIx) (n : Nibble) (s : State) :
    exec (.seReg x y n) s = finish (skipIf (s.reg x == s.reg y)) s := rfl

theorem exec_sneReg (x y : RegIx) (n : Nibble) (s : State) :
    exec (.sneReg x y n) s = finish (skipIf (s.reg x != s.reg y)) s := rfl

/-- Settles O26: both are conditional skips, on `V[x] = V[y]` and on its negation. -/
theorem registerSkipsCompareTwoRegisters : Obligations.RegisterSkipsCompareTwoRegisters := by
  intro x y n s
  refine ⟨encodeThenDecodeIsTheInstruction (.seReg x y n) rfl,
    encodeThenDecodeIsTheInstruction (.sneReg x y n) rfl, ?_, ?_⟩
  · simpa only [beq_iff_eq] using exec_of_skipIf (exec_seReg x y n s)
  · simpa only [bne_iff_ne] using exec_of_skipIf (exec_sneReg x y n s)

/-! ### SKP and SKNP (R211, R212) -/

theorem exec_skp (x : RegIx) (s : State) :
    exec (.skp x) s = finish (skipIf (s.keyDown (s.lowNibble x))) s := rfl

theorem exec_sknp (x : RegIx) (s : State) :
    exec (.sknp x) s = finish (skipIf (!s.keyDown (s.lowNibble x))) s := rfl

theorem State.lowNibble_eq_ofNat (s : State) (x : RegIx) :
    s.lowNibble x = BitVec.ofNat 4 ((s.reg x).toNat % 16) := by
  apply BitVec.eq_of_toNat_eq
  rw [State.toNat_lowNibble, BitVec.toNat_ofNat]
  omega

/-- Settles O27: both are conditional skips, on the key of the low nibble and on its negation. -/
theorem keySkipsTestTheKeyInTheLowNibble : Obligations.KeySkipsTestTheKeyInTheLowNibble := by
  intro x s
  rw [← s.lowNibble_eq_ofNat]
  refine ⟨encodeThenDecodeIsTheInstruction (.skp x) rfl,
    encodeThenDecodeIsTheInstruction (.sknp x) rfl, exec_of_skipIf (exec_skp x s), ?_⟩
  simpa only [Bool.not_eq_true'] using exec_of_skipIf (exec_sknp x s)

/-! ### LD_IMM and ADD_IMM (R146, R147) -/

theorem exec_ldImm (x : RegIx) (kk : Byte) (s : State) :
    exec (.ldImm x kk) s = finish .next (s.setReg x kk) := rfl

theorem exec_addImm (x : RegIx) (kk : Byte) (s : State) :
    exec (.addImm x kk) s = finish .next (s.setReg x (s.reg x + kk)) := rfl

/-- Settles O28: each is one register write. -/
theorem immediateLoadAndAddWriteOneRegister : Obligations.ImmediateLoadAndAddWriteOneRegister := by
  intro x kk s
  refine ⟨encodeThenDecodeIsTheInstruction (.ldImm x kk) rfl,
    encodeThenDecodeIsTheInstruction (.addImm x kk) rfl, exec_of_setReg (exec_ldImm x kk s), ?_⟩
  obtain ⟨t, hexec, hresult, hrest⟩ := exec_of_setReg (exec_addImm x kk s)
  exact ⟨t, hexec, by rw [hresult, BitVec.toNat_add], hrest⟩

/-! ### LD_I and ADD_I_VX (R149, R225) -/

theorem exec_ldI (nnn : Addr) (s : State) : exec (.ldI nnn) s = finish .next (s.setI nnn) := rfl

theorem exec_addIVx (x : RegIx) (s : State) :
    exec (.addIVx x) s = finish .next (s.setI (s.indexPlusReg x)) := rfl

theorem State.toNat_indexPlusReg (s : State) (x : RegIx) :
    (s.indexPlusReg x).toNat = (s.i.toNat + (s.reg x).toNat) % 4096 := by
  have hreg := (s.reg x).isLt
  rw [State.indexPlusReg, BitVec.toNat_add, BitVec.toNat_setWidth]
  omega

/-- An instruction that only writes `a` to `I` completes, and changes `I` and `pc` only. -/
theorem exec_of_setI {a : Addr} (h : exec i s = finish .next (s.setI a)) :
    ∃ t, exec i s = .next t ∧ t.i = a ∧ t.pc = s.pc + 2 ∧ ChangesOnly [.i, .pc] s t :=
  ⟨_, h.trans (finish_next _), rfl, rfl, (s.changesOnly_setI a).singleton_setPc _⟩

/-- Settles O29: each is one write of `I`, on 12 bits. -/
theorem indexSetAndAddWrapAtTwelveBits : Obligations.IndexSetAndAddWrapAtTwelveBits := by
  intro nnn x s
  refine ⟨encodeThenDecodeIsTheInstruction (.ldI nnn) rfl,
    encodeThenDecodeIsTheInstruction (.addIVx x) rfl, exec_of_setI (exec_ldI nnn s), ?_⟩
  obtain ⟨t, hexec, hi, hrest⟩ := exec_of_setI (exec_addIVx x s)
  exact ⟨t, hexec, by rw [hi, State.toNat_indexPlusReg], hrest⟩

/-! ### RND (R151) -/

theorem exec_rnd (x : RegIx) (kk : Byte) (s : State) :
    exec (.rnd x kk) s = .next
      ((s.setReg x (Config.rand8 s.draws &&& kk)).consumeDraw.setPc (s.pc + 2)) := rfl

theorem State.changesOnly_consumeDraw (s : State) : ChangesOnly [.draws] s s.consumeDraw := by
  intro p hp
  cases p
  case draws => simp at hp
  case mem | regs | key => exact fun _ => rfl
  all_goals rfl

/-- Settles O31: RND is one register write of the masked draw, and one draw consumed. -/
theorem rndMasksOneFreeDraw : Obligations.RndMasksOneFreeDraw := by
  intro x kk s
  refine ⟨encodeThenDecodeIsTheInstruction (.rnd x kk) rfl, _, exec_rnd x kk s, ?_, fun hkk => ?_,
    fun r hr => ?_, rfl, rfl, ?_⟩
  · simp
  · simp [hkk]
  · simp [State.reg_setReg_ne, hr]
  · exact (((s.changesOnly_setReg x _).mono (by simp)).trans
      ((State.changesOnly_consumeDraw _).mono (by simp))).trans
      ((State.changesOnly_setPc _ _).mono (by simp))

/-! ### OR, AND and XOR (R173 to R175) -/

theorem exec_orReg (x y : RegIx) (s : State) :
    exec (.orReg x y) s = finish .next (s.setReg x (s.reg x ||| s.reg y)) := rfl

theorem exec_andReg (x y : RegIx) (s : State) :
    exec (.andReg x y) s = finish .next (s.setReg x (s.reg x &&& s.reg y)) := rfl

theorem exec_xorReg (x y : RegIx) (s : State) :
    exec (.xorReg x y) s = finish .next (s.setReg x (s.reg x ^^^ s.reg y)) := rfl

/-- Settles O33: each is one register write, of a word whose bits are the operation's. -/
theorem logicalOpsActBitByBitAndKeepVf : Obligations.LogicalOpsActBitByBitAndKeepVf := by
  intro x y s
  refine ⟨encodeThenDecodeIsTheInstruction (.orReg x y) rfl,
    encodeThenDecodeIsTheInstruction (.andReg x y) rfl,
    encodeThenDecodeIsTheInstruction (.xorReg x y) rfl, fun i op hi => ?_⟩
  obtain ⟨rfl, rfl⟩ | ⟨rfl, rfl⟩ | ⟨rfl, rfl⟩ := hi
  · obtain ⟨t, hexec, hresult, hrest⟩ := exec_of_setReg (exec_orReg x y s)
    exact ⟨t, hexec, fun b _ => by rw [hresult, BitVec.getLsbD_or], hrest⟩
  · obtain ⟨t, hexec, hresult, hrest⟩ := exec_of_setReg (exec_andReg x y s)
    exact ⟨t, hexec, fun b _ => by rw [hresult, BitVec.getLsbD_and], hrest⟩
  · obtain ⟨t, hexec, hresult, hrest⟩ := exec_of_setReg (exec_xorReg x y s)
    exact ⟨t, hexec, fun b _ => by rw [hresult, BitVec.getLsbD_xor], hrest⟩

/-! ### ADD and SUBN (R176, R179) -/

theorem exec_addReg (x y : RegIx) (s : State) :
    exec (.addReg x y) s = finish .next
      (s.writeResultThenFlag x (s.reg x + s.reg y) (carryFlag (s.reg x) (s.reg y))) := rfl

theorem exec_subnReg (x y : RegIx) (s : State) :
    exec (.subnReg x y) s = finish .next
      (s.writeResultThenFlag x (s.reg y - s.reg x) (notBorrowFlag (s.reg y) (s.reg x))) := rfl

theorem carryFlag_eq (a b : Byte) : carryFlag a b = if a.toNat + b.toNat > 255 then 1 else 0 := by
  simp [carryFlag, flagByte]

/-- Settles O34: ADD writes the sum and then the carry. -/
theorem addWritesTheSumThenTheCarry : Obligations.AddWritesTheSumThenTheCarry := by
  intro x y s
  obtain ⟨t, hexec, hflag, hresult, hrest⟩ := exec_of_writeResultThenFlag (exec_addReg x y s)
  refine ⟨encodeThenDecodeIsTheInstruction (.addReg x y) rfl, t, hexec, ?_, fun hx => ?_, hrest⟩
  · rw [hflag, carryFlag_eq]
  · rw [hresult hx, BitVec.toNat_add]

/-- Settles O36: SUBN is SUB's difference and flag with the operands exchanged. -/
theorem subnWritesTheReverseDifferenceThenNotBorrow :
    Obligations.SubnWritesTheReverseDifferenceThenNotBorrow := by
  intro x y s
  obtain ⟨t, hexec, hflag, hresult, hrest⟩ := exec_of_writeResultThenFlag (exec_subnReg x y s)
  refine ⟨encodeThenDecodeIsTheInstruction (.subnReg x y) rfl, t, hexec, ?_, fun hx => ?_, hrest⟩
  · rw [hflag, notBorrowFlag_eq]
  · rw [hresult hx, toNat_sub_eq_emod]

end Sys2Proof.Machine
end

section
/-!
PROOFS. The Control family's instructions on memory (46_control_family.md section 4): BCD, dump and restore,
and the addresses `I + k` they go to.
-/

namespace Sys2Proof.Machine

variable (s : State)

/-! ### The addresses `I + k` -/

theorem State.toNat_indexed (k : Nat) : (s.indexed k).toNat = (s.i.toNat + k) % 4096 := by
  rw [State.indexed, BitVec.toNat_add, BitVec.toNat_ofNat]
  omega

theorem State.indexed_eq_ofNat (k : Nat) :
    s.indexed k = BitVec.ofNat 12 ((s.i.toNat + k) % 4096) := by
  rw [← State.toNat_indexed, BitVec.ofNat_toNat, BitVec.setWidth_eq]

theorem State.toNat_indexed_sub_i {k : Nat} (hk : k < 4096) : (s.indexed k - s.i).toNat = k := by
  have hi := s.i.isLt
  rw [BitVec.toNat_sub, State.toNat_indexed]
  omega

theorem State.indexed_toNat_sub_i (a : Addr) : s.indexed (a - s.i).toNat = a := by
  rw [State.indexed, BitVec.ofNat_toNat, BitVec.setWidth_eq, BitVec.add_comm, BitVec.sub_add_cancel]

theorem State.indexed_inj {j k : Nat} (hj : j < 4096) (hk : k < 4096) :
    s.indexed j = s.indexed k ↔ j = k :=
  ⟨fun h => by rw [← s.toNat_indexed_sub_i hj, h, s.toNat_indexed_sub_i hk], fun h => h ▸ rfl⟩

/-! ### Frames of the memory writes -/

theorem State.changesOnly_memWrite (a : Addr) (b : Byte) :
    ChangesOnly [.mem] s (s.memWrite a b) := by
  intro p hp
  cases p
  case mem => simp at hp
  case regs | key => exact fun _ => rfl
  all_goals rfl

theorem State.changesOnly_storeDigits (d : Byte × Byte × Byte) :
    ChangesOnly [.mem] s (s.storeDigits d) :=
  ((s.changesOnly_memWrite _ _).trans (State.changesOnly_memWrite _ _ _)).trans
    (State.changesOnly_memWrite _ _ _)

theorem State.changesOnly_dumpRegs (n : Nat) : ChangesOnly [.mem] s (s.dumpRegs n) := by
  induction n with
  | zero => exact .refl _ s
  | succ k ih => exact ih.trans (State.changesOnly_memWrite _ _ _)

theorem State.changesOnly_restoreRegs (n : Nat) : ChangesOnly [.regs] s (s.restoreRegs n) := by
  induction n with
  | zero => exact .refl _ s
  | succ k ih => exact ih.trans (State.changesOnly_setReg _ _ _)

/-! ### BCD (R227) -/

theorem exec_ldBVx (x : RegIx) : exec (.ldBVx x) s =
    .next ((s.storeDigits (bcdDigits (s.reg x))).setPc (s.pc + 2)) := rfl

theorem State.memRead_storeDigits (d : Byte × Byte × Byte) (a : Addr) :
    (s.storeDigits d).memRead a =
      if a = s.indexed 2 then d.2.2 else if a = s.indexed 1 then d.2.1
      else if a = s.indexed 0 then d.1 else s.memRead a := by
  simp only [State.storeDigits, State.memRead_memWrite]

theorem toNat_bcdDigits (b : Byte) :
    (bcdDigits b).1.toNat = b.toNat / 100 ∧ (bcdDigits b).2.1.toNat = b.toNat / 10 % 10 ∧
      (bcdDigits b).2.2.toNat = b.toNat % 10 := by
  have hb := b.isLt
  simp only [bcdDigits, BitVec.toNat_ofNat]
  omega

/-- Settles O42: BCD is three stores at addresses that differ, and each digit fits in a byte. -/
theorem bcdStoresHundredsTensOnes : Obligations.BcdStoresHundredsTensOnes := by
  intro x s
  obtain ⟨hhundreds, htens, hones⟩ := toNat_bcdDigits (s.reg x)
  have h01 : s.indexed 0 ≠ s.indexed 1 := by simp [State.indexed_inj]
  have h02 : s.indexed 0 ≠ s.indexed 2 := by simp [State.indexed_inj]
  have h12 : s.indexed 1 ≠ s.indexed 2 := by simp [State.indexed_inj]
  refine ⟨encodeThenDecodeIsTheInstruction (.ldBVx x) rfl, _, exec_ldBVx s x, ?_, ?_, ?_,
    fun k _ => s.toNat_indexed k, fun a h0 h1 h2 => ?_, rfl,
    (s.changesOnly_storeDigits _).singleton_setPc _⟩
  all_goals rw [State.memRead_setPc, State.memRead_storeDigits]
  · rw [if_neg h02, if_neg h01, if_pos rfl, hhundreds]
  · rw [if_neg h12, if_pos rfl, htens]
  · rw [if_pos rfl, hones]
  · rw [if_neg h2, if_neg h1, if_neg h0]

/-! ### Dump and restore (R228, R229) -/

theorem exec_ldMemVx (x : RegIx) : exec (.ldMemVx x) s =
    .next ((s.dumpRegs (x.toNat + 1)).setPc (s.pc + 2)) := by
  have hpc : (s.dumpRegs (x.toNat + 1)).pc = s.pc := by rw [State.dumpRegs_eq]
  rw [← hpc]
  rfl

theorem exec_ldVxMem (x : RegIx) : exec (.ldVxMem x) s =
    .next ((s.restoreRegs (x.toNat + 1)).setPc (s.pc + 2)) := by
  have hpc : (s.restoreRegs (x.toNat + 1)).pc = s.pc := by rw [State.restoreRegs_eq]
  rw [← hpc]
  rfl

theorem State.memRead_dumpRegs_indexed {n k : Nat} (hn : n ≤ 16) (hk : k < n) :
    (s.dumpRegs n).memRead (s.indexed k) = s.reg (BitVec.ofNat 4 k) := by
  rw [State.memRead_dumpRegs _ _ hn, s.toNat_indexed_sub_i (by omega), if_pos hk]

theorem State.memRead_dumpRegs_of_ne {n : Nat} (hn : n ≤ 16) {a : Addr}
    (ha : ∀ k, k < n → a ≠ s.indexed k) : (s.dumpRegs n).memRead a = s.memRead a := by
  rw [State.memRead_dumpRegs _ _ hn, if_neg]
  exact fun hk => ha _ hk (s.indexed_toNat_sub_i a).symm

/-- Settles O43: the dump's `x + 1` stores, read back at `I + k` and anywhere else. -/
theorem dumpStoresV0ToVxInclusive : Obligations.DumpStoresV0ToVxInclusive := by
  intro x s
  have hx : x.toNat + 1 ≤ 16 := x.isLt
  refine ⟨encodeThenDecodeIsTheInstruction (.ldMemVx x) rfl, _, exec_ldMemVx s x, fun k hk => ?_,
    fun a ha => ?_, rfl, (s.changesOnly_dumpRegs _).singleton_setPc _⟩
  · exact ⟨s.toNat_indexed k, s.memRead_dumpRegs_indexed hx (by omega)⟩
  · exact s.memRead_dumpRegs_of_ne hx fun k hk => ha k (by omega)

/-- Settles O44: the restore's `x + 1` register writes. -/
theorem restoreLoadsV0ToVxInclusive : Obligations.RestoreLoadsV0ToVxInclusive := by
  intro x s
  have hx : x.toNat + 1 ≤ 16 := x.isLt
  refine ⟨encodeThenDecodeIsTheInstruction (.ldVxMem x) rfl, _, exec_ldVxMem s x, fun r hr => ?_,
    fun r hr => ?_, rfl, (s.changesOnly_restoreRegs _).singleton_setPc _⟩
  all_goals rw [State.reg_setPc, State.reg_restoreRegs _ _ hx]
  · rw [if_pos (by omega), State.indexed_eq_ofNat]
  · rw [if_neg (by omega)]

/-- Settles O45: the restore reads at the same `I` what the dump stored there, whatever the registers hold
in between. -/
theorem dumpThenRestoreGivesTheRegistersBack : Obligations.DumpThenRestoreGivesTheRegistersBack := by
  intro x s v
  have hx : x.toNat + 1 ≤ 16 := x.isLt
  have hi : (s.dumpRegs (x.toNat + 1)).i = s.i := s.changesOnly_dumpRegs _ .i (by simp)
  refine ⟨_, _, exec_ldMemVx s x, exec_ldVxMem _ x, fun r hr => ?_, fun r hr => ?_⟩
  all_goals rw [State.reg_setPc, State.reg_restoreRegs _ _ hx]
  · rw [if_pos (by omega)]
    have hdumped := s.memRead_dumpRegs_indexed hx (k := r.toNat) (by omega)
    rw [BitVec.ofNat_toNat, BitVec.setWidth_eq] at hdumped
    rw [← hdumped, State.indexed, State.indexed, ← hi]
    rfl
  · rw [if_neg (by omega)]
    rfl

end Sys2Proof.Machine
end

section
/-!
PROOFS. The frame of every instruction, said once, and the whole-machine rules that follow from it: who
changes the screen, the stack and the timers, and which causes end in Faulted (10_state.md sections 1 and 5
to 7, 60_exceptions.md section 1).
-/

namespace Sys2Proof.Machine

variable {s t : State} {i : Instr} {p : StatePart}

/-! ### The frame of every instruction -/

/-- The parts of the state that an instruction's own cycle may change. -/
def mayChange : Instr → List StatePart
  | .sys _ | .jp _ | .jpV0 _ => [.pc, .run, .fault]
  | .call _ | .ret => [.pc, .stack, .run, .fault]
  | .cls => [.fb, .pc]
  | .seImm _ _ | .sneImm _ _ | .seReg _ _ _ | .sneReg _ _ _ | .skp _ | .sknp _ => [.pc]
  | .ldImm _ _ | .addImm _ _ | .mov _ _ | .orReg _ _ | .andReg _ _ | .xorReg _ _ => [.regs, .pc]
  | .addReg _ _ | .subReg _ _ | .srl _ _ | .subnReg _ _ | .sll _ _ | .ldVxDt _ => [.regs, .pc]
  | .ldVxMem _ => [.regs, .pc]
  | .ldI _ | .addIVx _ | .ldFVx _ => [.i, .pc]
  | .rnd _ _ => [.regs, .pc, .draws]
  | .drw _ _ _ => [.regs, .fb, .pc]
  | .ldVxK _ => [.run, .awaitReg]
  | .ldDtVx _ => [.dt, .pc]
  | .ldStVx _ => [.st, .pc]
  | .ldBVx _ | .ldMemVx _ => [.mem, .pc]

theorem ChangesOnly.of_skipIf {c : Bool} (h : finish (skipIf c) s = .next t) :
    ChangesOnly [.pc] s t := by
  rw [finish_skipIf] at h
  cases h
  exact s.changesOnly_setPc _

theorem ChangesOnly.of_jumpChecked {a : Addr} (h : jumpChecked a s = .next t) :
    ChangesOnly [.pc, .run, .fault] s t := by
  rw [jumpChecked_eq] at h
  cases h
  split
  · exact (s.changesOnly_raiseFatal _).mono (by simp)
  · exact (s.changesOnly_setPc a).mono (by simp)

theorem exec_drw (x y : RegIx) (n : Nibble) (s : State) : exec (.drw x y n) s =
    .next (((s.setFB (s.drawRows (s.originX x) (s.originY y) n.toNat).1).setReg VF
      (collisionFlag (s.drawRows (s.originX x) (s.originY y) n.toNat).2)).setPc (s.pc + 2)) := rfl

theorem State.changesOnly_drawn (s : State) (f : FrameBuffer) (b : Byte) (a : Addr) :
    ChangesOnly [.regs, .fb, .pc] s (((s.setFB f).setReg VF b).setPc a) :=
  (((s.changesOnly_setFB f).mono (by simp)).trans
    ((State.changesOnly_setReg _ VF b).mono (by simp))).trans
    ((State.changesOnly_setPc _ a).mono (by simp))

/-- An instruction changes no part of the state but those of `mayChange`. -/
theorem exec_changesOnly (h : exec i s = .next t) : ChangesOnly (mayChange i) s t := by
  cases i
  case sys nnn =>
    rw [exec_sys] at h
    cases h
    split
    · exact (s.changesOnly_setPc _).mono (by simp [mayChange])
    · exact (s.changesOnly_raiseFatal _).mono (by simp [mayChange])
  case cls =>
    cases h
    exact (s.changesOnly_setFB _).singleton_setPc _
  case ret =>
    cases hstack : s.stack with
    | nil =>
      cases (exec_ret_of_nil hstack).symm.trans h
      exact (s.changesOnly_raiseFatal _).mono (by simp [mayChange])
    | cons a rest =>
      cases (exec_ret_of_cons hstack).symm.trans h
      exact (s.changesOnly_setStack_setPc rest a).mono (by simp [mayChange])
  case jp | jpV0 => exact .of_jumpChecked h
  case call nnn =>
    rw [exec_call] at h
    cases h
    split
    · exact (s.changesOnly_raiseFatal _).mono (by simp [mayChange])
    · split
      · exact (s.changesOnly_raiseFatal _).mono (by simp [mayChange])
      · exact (s.changesOnly_setStack_setPc _ nnn).mono (by simp [mayChange])
  case seImm | sneImm | seReg | sneReg | skp | sknp => exact .of_skipIf h
  case ldImm | addImm | mov | orReg | andReg | xorReg | ldVxDt =>
    cases h
    exact (s.changesOnly_setReg _ _).setPc _
  case addReg | subReg | srl | subnReg | sll =>
    cases h
    exact (s.changesOnly_writeResultThenFlag _ _ _).setPc _
  case ldVxMem x =>
    cases (exec_ldVxMem s x).symm.trans h
    exact (s.changesOnly_restoreRegs _).setPc _
  case ldI | addIVx | ldFVx =>
    cases h
    exact (s.changesOnly_setI _).singleton_setPc _
  case rnd x kk =>
    cases h
    exact (((s.changesOnly_setReg x _).mono (by simp [mayChange])).trans
      ((State.changesOnly_consumeDraw _).mono (by simp [mayChange]))).trans
      ((State.changesOnly_setPc _ _).mono (by simp [mayChange]))
  case drw =>
    cases h
    exact s.changesOnly_drawn _ _ _
  case ldVxK x =>
    cases h
    exact s.changesOnly_startWait x
  case ldDtVx =>
    cases h
    exact (s.changesOnly_setDT _).singleton_setPc _
  case ldStVx =>
    cases h
    exact (s.changesOnly_setST _).singleton_setPc _
  case ldBVx =>
    cases h
    exact (s.changesOnly_storeDigits _).singleton_setPc _
  case ldMemVx x =>
    cases (exec_ldMemVx s x).symm.trans h
    exact (s.changesOnly_dumpRegs _).singleton_setPc _

/-! ### The instructions that may change a part, read off the table `mayChange` -/

theorem fb_mem_mayChange (h : .fb ∈ mayChange i) : i = .cls ∨ ∃ x y n, i = .drw x y n := by
  cases i <;> simp [mayChange] at h ⊢

theorem stack_mem_mayChange (h : .stack ∈ mayChange i) : i = .ret ∨ ∃ nnn, i = .call nnn := by
  cases i <;> simp [mayChange] at h ⊢

theorem dt_mem_mayChange (h : .dt ∈ mayChange i) : ∃ x, i = .ldDtVx x := by
  cases i <;> simp [mayChange] at h ⊢

theorem st_mem_mayChange (h : .st ∈ mayChange i) : ∃ x, i = .ldStVx x := by
  cases i <;> simp [mayChange] at h ⊢

theorem run_mem_mayChange (h : .run ∈ mayChange i) : (∃ nnn, i = .sys nnn) ∨ i = .ret ∨
    (∃ nnn, i = .jp nnn) ∨ (∃ nnn, i = .call nnn) ∨ (∃ nnn, i = .jpV0 nnn) ∨ ∃ x, i = .ldVxK x := by
  cases i <;> simp [mayChange] at h ⊢

theorem mem_mayChange (h : exec i s = .next t) (hp : ¬p.Same s t) : p ∈ mayChange i := by
  by_contra hmem
  exact hp (exec_changesOnly h p hmem)

/-! ### The screen and the stack (10_state.md R30, R31) -/

/-- A part that no event but a load changes outside an instruction changes through a load, or through an
instruction that may change it. -/
theorem step_changes (hp : p ∉ [.events, .regs, .pc, .dt, .st, .key, .run, .fault])
    (h : step s = .next t) (hchange : ¬p.Same s t) :
    (∃ image, s.nextEvent = .load image) ∨
    (s.nextEvent = .cycle ∧ s.run = .running ∧
      ∃ i, decode (s.fetch16 s.pc) = .instr i ∧ p ∈ mayChange i) := by
  obtain hload | ⟨i, he, hr, hd, hx⟩ | hframe := step_load_or_exec_or_frame h
  · exact .inl hload
  · refine .inr ⟨he, hr, i, hd, mem_mayChange hx fun hsame => hchange ?_⟩
    have hevents : p ∉ [.events] := fun hmem => hp (by simp [List.mem_singleton.mp hmem])
    exact (s.changesOnly_popEvent p hevents).trans hsame
  · exact absurd (hframe p hp) hchange

/-- Settles O47: of the instructions, CLS and DRW alone may change the framebuffer. -/
theorem onlyClsDrwAndLoadChangeTheScreen : Obligations.OnlyClsDrwAndLoadChangeTheScreen := by
  intro s t h hchange
  obtain hload | ⟨he, hr, i, hd, hi⟩ := step_changes (p := .fb) (by simp) h hchange
  · exact .inl hload
  · exact .inr ⟨he, hr, by simpa [hd] using fb_mem_mayChange hi⟩

/-- Settles O48: of the instructions, CALL and RET alone may change the stack. -/
theorem onlyCallRetAndLoadChangeTheStack : Obligations.OnlyCallRetAndLoadChangeTheStack := by
  intro s t h hchange
  obtain hload | ⟨he, hr, i, hd, hi⟩ := step_changes (p := .stack) (by simp) h hchange
  · exact .inl hload
  · exact .inr ⟨he, hr, by simpa [hd] using stack_mem_mayChange hi⟩

/-! ### The timers (10_state.md R27) -/

theorem toNat_countDown_le (b : Byte) : (countDown b).toNat ≤ b.toNat := by
  rw [toNat_countDown]
  exact Nat.sub_le _ _

theorem State.load_timers_le (s : State) (image : List Byte) :
    (s.load image).dt.toNat ≤ s.dt.toNat ∧ (s.load image).st.toNat ≤ s.st.toNat := by
  cases hacc : imageAccepted image
  · rw [State.load_rejected _ hacc]
    exact ⟨Nat.le_refl _, Nat.le_refl _⟩
  · rw [State.load_accepted _ hacc]
    exact ⟨Nat.zero_le _, Nat.zero_le _⟩

/-- No event raises a timer but a cycle that executes an instruction. -/
theorem step_timers_le_or_exec (h : step s = .next t) :
    (t.dt.toNat ≤ s.dt.toNat ∧ t.st.toNat ≤ s.st.toNat) ∨
    (s.nextEvent = .cycle ∧ s.run = .running ∧
      ∃ i, decode (s.fetch16 s.pc) = .instr i ∧ exec i s.popEvent = .next t) := by
  obtain ⟨-, rfl⟩ | ⟨k, p, -, rfl⟩ | ⟨image, -, rfl⟩ | ⟨-, -, rfl⟩ | ⟨-, -, rfl⟩ | ⟨-, -, -, rfl⟩ |
    hexec := step_cases h
  · exact .inl ⟨toNat_countDown_le s.dt, toNat_countDown_le s.st⟩
  · exact .inl ⟨Nat.le_refl _, Nat.le_refl _⟩
  · exact .inl (s.popEvent.load_timers_le image)
  · exact .inl ⟨Nat.le_refl _, Nat.le_refl _⟩
  · have hdt := s.popEvent.changesOnly_completeWait .dt (by simp)
    have hst := s.popEvent.changesOnly_completeWait .st (by simp)
    exact .inl ⟨(congrArg BitVec.toNat hdt).le, (congrArg BitVec.toNat hst).le⟩
  · exact .inl ⟨Nat.le_refl _, Nat.le_refl _⟩
  · exact .inr hexec

/-- Settles O49: a timer that rises was changed by an instruction, and one instruction may change each. -/
theorem timersRiseOnlyWhenSet : Obligations.TimersRiseOnlyWhenSet := by
  intro s t h
  obtain ⟨hdt, hst⟩ | ⟨he, hr, i, hd, hx⟩ := step_timers_le_or_exec h
  · exact ⟨fun hrise => absurd hrise hdt.not_gt, fun hrise => absurd hrise hst.not_gt⟩
  · refine ⟨fun hrise => ⟨he, hr, ?_⟩, fun hrise => ⟨he, hr, ?_⟩⟩
    · have hne : t.dt ≠ s.dt := fun heq => by simp [heq] at hrise
      simpa [hd] using dt_mem_mayChange (mem_mayChange hx hne)
    · have hne : t.st ≠ s.st := fun heq => by simp [heq] at hrise
      simpa [hd] using st_mem_mayChange (mem_mayChange hx hne)

/-! ### The registers (10_state.md R20, R21) -/

/-- Settles O50: outside its own destinations an instruction writes no register. -/
theorem instructionsWriteOnlyTheirRegisters : Obligations.InstructionsWriteOnlyTheirRegisters := by
  intro i s t h r hr
  have hne : ∀ x, mayWriteReg i x = true → r ≠ x := fun x hx hrx => by simp [hrx, hx] at hr
  obtain ⟨k, rfl⟩ | ⟨x, -, rfl⟩ | ⟨a, -, -, rfl⟩ | ⟨a, -, -, -, rfl⟩ | ⟨a, rest, -, -, rfl⟩ |
    ⟨d, -, u, rfl, hu⟩ := exec_cases h
  case inr.inr.inr.inr.inr =>
    rw [State.reg_setPc]
    obtain rfl | ⟨x, b, hx, rfl⟩ | ⟨x, b, f, hx, hf, rfl⟩ | ⟨_, rfl⟩ | ⟨_, -, rfl⟩ | ⟨_, -, rfl⟩ |
      ⟨x, kk, rfl, rfl⟩ | ⟨-, rfl⟩ | ⟨x, y, n, f, c, rfl, rfl⟩ | ⟨x, -, rfl⟩ | ⟨x, -, rfl⟩ |
      ⟨x, rfl, rfl⟩ := hu
    · rfl
    · exact s.reg_setReg_ne b (hne x hx)
    · rw [State.reg_writeResultThenFlag, if_neg (hne VF hf), if_neg (hne x hx)]
    · rfl
    · rfl
    · rfl
    · exact s.reg_setReg_ne _ (hne x (by simp [mayWriteReg]))
    · rfl
    · exact State.reg_setReg_ne _ _ (hne VF (by simp [mayWriteReg]))
    · rfl
    · exact s.changesOnly_dumpRegs _ .regs (by simp) r
    · have hx : ¬r.toNat ≤ x.toNat := by simpa [mayWriteReg] using hr
      rw [State.reg_restoreRegs _ _ x.isLt, if_neg (by omega)]
  all_goals rfl

/-! ### Fatal stops (60_exceptions.md R251, R252) -/

/-- From Running, only a fatal stop ends in Faulted. -/
theorem eq_raiseFatal_of_faulted (hrun : s.run = .running) (h : exec i s = .next t)
    (ht : t.run = .faulted) : ∃ k, t = s.raiseFatal k := by
  obtain hk | ⟨x, rfl⟩ | ⟨a, -, rfl⟩ | ⟨a, -, -, rfl⟩ | ⟨a, rest, -, rfl⟩ | ⟨d, u, -, hdata, rfl⟩ :=
    exec_update_cases h
  · exact hk
  · simp at ht
  case inr.inr.inr.inr.inr => simp [hdata.run, hrun] at ht
  all_goals simp [hrun] at ht

theorem jumpChecked_faulted {a : Addr} (hrun : s.run = .running) (h : jumpChecked a s = .next t)
    (ht : t.run = .faulted) :
    s.cfg.enforceEvenPc = true ∧ a.toNat % 2 = 1 ∧ t.fault = some .misalignedPc := by
  rw [jumpChecked_eq] at h
  cases h
  cases hmis : s.misaligned a
  · simp [hmis, hrun] at ht
  · obtain ⟨heven, hodd⟩ := (s.misaligned_iff a).mp hmis
    exact ⟨heven, hodd, rfl⟩

theorem exec_call_faulted {a : Addr} (hrun : s.run = .running) (h : exec (.call a) s = .next t)
    (ht : t.run = .faulted) :
    (s.cfg.enforceEvenPc = true ∧ a.toNat % 2 = 1 ∧ t.fault = some .misalignedPc) ∨
    (s.cfg.stackDepth = some s.stack.length ∧ (s.cfg.enforceEvenPc = true → a.toNat % 2 = 0) ∧
      t.fault = some .stackOverflow) := by
  rw [exec_call] at h
  cases h
  cases hmis : s.misaligned a
  · cases hfull : s.stackFull
    · simp [hmis, hfull, hrun] at ht
    · refine .inr ⟨s.stackFull_iff.mp hfull, fun heven => ?_, rfl⟩
      by_contra hodd
      have := State.misaligned_eq_true heven (Nat.mod_two_ne_zero.mp hodd)
      simp [hmis] at this
  · obtain ⟨heven, hodd⟩ := (s.misaligned_iff a).mp hmis
    exact .inl ⟨heven, hodd, rfl⟩

/-- Settles O9: a fatal stop touches `run` and `fault` only; of the instructions that may change `run`, each
faults by its own checks, and the key wait does not fault. -/
theorem fatalErrorsArePreciseAndTheirCausesAreTheListedOnes :
    Obligations.FatalErrorsArePreciseAndTheirCausesAreTheListedOnes := by
  intro i s t hrun h ht
  obtain ⟨k, hk⟩ := eq_raiseFatal_of_faulted hrun h ht
  refine ⟨by rw [hk]; rfl, ?_⟩
  have hchange : ¬StatePart.run.Same s t := fun hsame => by
    have heq : t.run = s.run := hsame
    simp [ht, hrun] at heq
  obtain ⟨nnn, rfl⟩ | rfl | ⟨nnn, rfl⟩ | ⟨nnn, rfl⟩ | ⟨nnn, rfl⟩ | ⟨x, rfl⟩ :=
    run_mem_mayChange (mem_mayChange h hchange)
  · rw [exec_sys] at h
    cases h
    cases hnop : s.cfg.sysAsNop
    · exact .inr (.inl ⟨nnn, rfl, rfl, rfl⟩)
    · simp [hnop, hrun] at ht
  · cases hstack : s.stack with
    | nil =>
      cases (exec_ret_of_nil hstack).symm.trans h
      exact .inl ⟨rfl, rfl, rfl⟩
    | cons a rest =>
      cases (exec_ret_of_cons hstack).symm.trans h
      simp [hrun] at ht
  · obtain ⟨heven, hodd, hfault⟩ := jumpChecked_faulted hrun h ht
    exact .inr (.inr (.inl ⟨nnn, .inl rfl, heven, hodd, hfault⟩))
  · obtain ⟨heven, hodd, hfault⟩ | ⟨hfull, hok, hfault⟩ := exec_call_faulted hrun h ht
    · exact .inr (.inr (.inl ⟨nnn, .inr rfl, heven, hodd, hfault⟩))
    · exact .inr (.inr (.inr (.inr ⟨nnn, _, rfl, hfull, rfl, hok, hfault⟩)))
  · obtain ⟨heven, hodd, hfault⟩ := jumpChecked_faulted hrun h ht
    rw [State.toNat_offsetTarget] at hodd
    exact .inr (.inr (.inr (.inl ⟨nnn, rfl, heven, hodd, hfault⟩)))
  · cases h
    simp [PcOutcome.apply] at ht

end Sys2Proof.Machine
end

section
/-!
PROOFS. Loads and the reset state (70_reset_and_hazards.md sections 1 and 2, 10_state.md section 11).
-/

namespace Sys2Proof.Machine

variable {s : State} {es : List Event} {image : List Byte}

/-! ### The reset state (10_state.md R40) -/

theorem reset_reg (r : RegIx) : State.reset.reg r = 0x00 := by
  simp [State.reg, State.reset]

theorem reset_keyDown (k : KeyIx) : State.reset.keyDown k = false := by
  simp [State.keyDown, State.reset]

theorem reset_fbRead (b : Nat) : fbRead State.reset.fb b = 0x00 := fbRead_blank b

/-- Settles O18: the reset state lists no byte, so memory reads as the font and zeroes. -/
theorem resetStateHoldsTheListedValues : Obligations.ResetStateHoldsTheListedValues :=
  ⟨fun _ => rfl, reset_reg, rfl, rfl, rfl, rfl, rfl, reset_keyDown, fun b _ => reset_fbRead b,
    rfl, rfl, rfl⟩

/-! ### A rejected load (R283) -/

theorem imageAccepted_eq_false (h : ¬(1 ≤ image.length ∧ image.length ≤ 3584)) :
    imageAccepted image = false := by
  rwa [← imageAccepted_iff, Bool.not_eq_true] at h

theorem State.popEvent_of_events_cons {e : Event} (h : s.events = e :: es) :
    s.popEvent = { s with events := es } := by
  rw [State.popEvent, h, List.tail_cons]

theorem step_load (h : s.events = .load image :: es) : step s = .next (s.popEvent.load image) :=
  step_of_events_cons h

/-- Settles O17: a length outside the bounds fails `imageAccepted`, and then the port only replies. -/
theorem rejectedLoadChangesNothing : Obligations.RejectedLoadChangesNothing := by
  intro s es image hev hlen
  have hrej : imageAccepted image = false := imageAccepted_eq_false (by omega)
  refine ⟨by simp [loadReply, hrej], ?_⟩
  rw [step_load hev, State.load_rejected _ hrej, State.popEvent_of_events_cons hev]

/-! ### An accepted load (R280) -/

/-- The font is below the image and the image is what was placed; elsewhere the byte is zero. -/
theorem read_loadedMemory (cfg : Config) (image : List Byte) (a : Nat) :
    Memory.read cfg (loadedMemory cfg image) a =
      if h : a < 80 then cfg.font[a]
      else if h : 0x200 ≤ a ∧ a < 0x200 + image.length then image[a - 0x200] else 0x00 := by
  rw [loadedMemory, Memory.read_place]
  by_cases hfont : a < 80
  · rw [if_neg (by omega), dif_pos hfont]
    exact dif_pos hfont
  · rw [dif_neg hfont]
    by_cases himage : 0x200 ≤ a ∧ a < 0x200 + image.length
    · rw [if_pos himage, dif_pos himage, List.getD_eq_getElem]
    · rw [if_neg himage, dif_neg himage]
      exact dif_neg hfont

/-- Settles O16: an accepted load is the reset state with the image's memory, the parameters, the later events
and the draw count. -/
theorem acceptedLoadResetsAndPlacesTheImage : Obligations.AcceptedLoadResetsAndPlacesTheImage := by
  intro s es image hev hmin hmax
  have hacc : imageAccepted image = true := (imageAccepted_iff image).mpr ⟨hmin, hmax⟩
  have hstep : step s = .next { State.reset with
      mem := loadedMemory s.cfg image, cfg := s.cfg, events := es, draws := s.draws } := by
    rw [step_load hev, State.load_accepted _ hacc, State.popEvent_of_events_cons hev]
  exact ⟨by simp [loadReply, hacc], _, hstep, fun a => read_loadedMemory s.cfg image a.toNat,
    reset_reg, rfl, rfl, rfl, rfl, rfl, reset_keyDown, fun b _ => reset_fbRead b,
    rfl, rfl, rfl, rfl, rfl, rfl⟩

end Sys2Proof.Machine
end

section
/-!
PROOFS. The cycle in Running, Parked and Faulted (40_engine.md sections 1, 3 and 4).
-/

namespace Sys2Proof.Machine

variable {s t : State} {i : Instr}

/-! ### Running -/

theorem cycle_of_running (hrun : s.run = .running) (hdec : decode (s.fetch16 s.pc) = .instr i) :
    cycle s = exec i s := by
  simp [cycle, hrun, State.fetched, hdec, execDecoded]

theorem step_of_events_nil (h : s.events = []) : step s = cycle s := by
  have hpop : s.popEvent = s := by rw [State.popEvent, h, List.tail_nil, ← h]
  simp [step, State.nextEvent, h, hpop, applyEvent]

/-- Settles O7: the cycle of a Running state is its decoded instruction's, and a step is a cycle where none
or a cycle is listed. -/
theorem stepRunsTheDecodedInstruction : Obligations.StepRunsTheDecodedInstruction := by
  intro s i hrun hdec
  have hcycle := cycle_of_running hrun hdec
  refine ⟨hcycle, fun hev => (step_of_events_nil hev).trans hcycle, fun es => ?_⟩
  exact cycle_of_running (s := { s with events := es }) hrun hdec

/-! ### Parked (R122) -/

theorem packNNN_jp_eq_or (a : Addr) : packNNN 0x1 a = 0x1000#16 ||| a.setWidth 16 := by
  apply BitVec.eq_of_toNat_eq
  rw [toNat_packNNN, BitVec.toNat_or, BitVec.toNat_setWidth, Nat.mod_eq_of_lt (by omega)]
  exact Nat.two_pow_add_eq_or_of_lt a.isLt 1

theorem cycle_of_parked (hpark : s.Parked) (heven : s.PcEven) : cycle s = .next s := by
  obtain ⟨hrun, hfetch⟩ := hpark
  have hdec : decode (s.fetch16 s.pc) = .instr (.jp s.pc) := by
    rw [← State.fetched, hfetch, ← packNNN_jp_eq_or]
    exact encodeThenDecodeIsTheInstruction (.jp s.pc) rfl
  have hok : s.cfg.enforceEvenPc = false ∨ s.pc.toNat % 2 = 0 := by
    cases henf : s.cfg.enforceEvenPc
    · exact .inl rfl
    · exact .inr (heven henf).1
  rw [cycle_of_running hrun hdec, exec_jp, jumpChecked_eq, State.misaligned_eq_false hok]
  rfl

/-- Settles O12: one cycle jumps to where it is, so by induction any number does. -/
theorem parkedStateIsAFixedPointOfCycles : Obligations.ParkedStateIsAFixedPointOfCycles := by
  intro s n hpark heven
  induction n with
  | zero => rfl
  | succ n ih =>
    have hcycle : applyEvent .cycle s = .next s := cycle_of_parked hpark heven
    simpa [List.replicate_succ, applyEvents, hcycle] using ih

/-! ### Faulted (40_engine.md section 3) -/

/-- In Faulted an event that is no accepted load changes the timers or the keys at most. -/
theorem applyEvent_of_faulted {e : Event} (hrun : s.run = .faulted)
    (hload : ∀ image, e = .load image → ¬(1 ≤ image.length ∧ image.length ≤ 3584)) :
    ∃ t, applyEvent e s = .next t ∧ ChangesOnly [.dt, .st, .key] s t := by
  cases e with
  | cycle => exact ⟨s, by simp [applyEvent, cycle, hrun], .refl _ s⟩
  | tick => exact ⟨_, rfl, s.changesOnly_tick.mono (by simp)⟩
  | setKey k p => exact ⟨_, rfl, (s.changesOnly_setKeyDown k p).mono (by simp)⟩
  | load image =>
    refine ⟨s, ?_, .refl _ s⟩
    rw [applyEvent, State.load_rejected _ (imageAccepted_eq_false (hload image rfl))]

/-- Settles O10: each event keeps `run`, so the next one also meets a Faulted state; the frames compose. -/
theorem onlyAnAcceptedLoadLeavesFaulted : Obligations.OnlyAnAcceptedLoadLeavesFaulted := by
  intro es
  induction es with
  | nil => exact fun s _ _ => ⟨s, rfl, .refl _ s⟩
  | cons e es ih =>
    intro s hrun hload
    obtain ⟨u, hu, hsu⟩ := applyEvent_of_faulted hrun
      fun image he => hload image (he ▸ List.mem_cons_self)
    have hurun : u.run = .faulted := Eq.trans (hsu .run (by simp)) hrun
    obtain ⟨t, ht, hut⟩ := ih u hurun fun image hmem => hload image (List.mem_cons_of_mem e hmem)
    exact ⟨t, by rw [applyEvents, hu]; exact ht, hsu.trans hut⟩

end Sys2Proof.Machine
end

section
/-!
PROOFS. What no transition reads: the list of later events (log entry 2) and, in a cycle, the sound timer
(10_state.md section 5, 20_memory.md section 7).
-/

namespace Sys2Proof.Machine

variable {s t : State} {i : Instr}

/-- `s` with another value of ST and other events to come. -/
def State.withStEvents (s : State) (b : Byte) (es : List Event) : State :=
  { s with st := b, events := es }

/-- An outcome function reads neither ST nor the events: whatever they are, it answers one and the same
state but for them, keeps the events, and ST is a function of ST. -/
def BlindToStEvents (f : State → Host.Outcome State Fault Refusal) (s : State) : Prop :=
  ∃ (t : State) (g : Byte → Byte), ∀ b es,
    f (s.withStEvents b es) = .next (t.withStEvents (g b) es)

variable (b : Byte) (es : List Event)

theorem State.dumpRegs_withStEvents (n : Nat) :
    (s.withStEvents b es).dumpRegs n = (s.dumpRegs n).withStEvents b es := by
  induction n with
  | zero => rfl
  | succ k ih =>
    rw [State.dumpRegs, ih]
    rfl

theorem State.restoreRegs_withStEvents (n : Nat) :
    (s.withStEvents b es).restoreRegs n = (s.restoreRegs n).withStEvents b es := by
  induction n with
  | zero => rfl
  | succ k ih =>
    rw [State.restoreRegs, ih]
    rfl

theorem State.drawRows_withStEvents (x0 y0 n : Nat) :
    (s.withStEvents b es).drawRows x0 y0 n = s.drawRows x0 y0 n := by
  induction n with
  | zero => rfl
  | succ k ih =>
    rw [State.drawRows, ih]
    rfl

@[simp] theorem State.run_withStEvents : (s.withStEvents b es).run = s.run := rfl
@[simp] theorem State.pc_withStEvents : (s.withStEvents b es).pc = s.pc := rfl
@[simp] theorem State.cfg_withStEvents : (s.withStEvents b es).cfg = s.cfg := rfl
@[simp] theorem State.misaligned_withStEvents (a : Addr) :
    (s.withStEvents b es).misaligned a = s.misaligned a := rfl
@[simp] theorem State.stackFull_withStEvents :
    (s.withStEvents b es).stackFull = s.stackFull := rfl

variable {f : State → Host.Outcome State Fault Refusal}

theorem BlindToStEvents.of_skipIf (c : Bool)
    (h : ∀ b es, f (s.withStEvents b es) = finish (skipIf c) (s.withStEvents b es)) :
    BlindToStEvents f s :=
  ⟨s.setPc (if c then s.pc + 4 else s.pc + 2), id, fun b es => (h b es).trans (finish_skipIf _ c)⟩

theorem BlindToStEvents.of_jumpChecked (a : Addr)
    (h : ∀ b es, f (s.withStEvents b es) = jumpChecked a (s.withStEvents b es)) :
    BlindToStEvents f s := by
  refine ⟨if s.misaligned a then s.raiseFatal .misalignedPc else s.setPc a, id, fun b es => ?_⟩
  rw [h, jumpChecked_eq, State.misaligned_withStEvents]
  split <;> rfl

/-- No instruction reads ST or the events. -/
theorem blindToStEvents_exec (i : Instr) (s : State) : BlindToStEvents (exec i) s := by
  obtain ⟨t, ht⟩ := exec_next i s
  cases i
  case seImm x kk => exact .of_skipIf (s.reg x == kk) fun _ _ => rfl
  case sneImm x kk => exact .of_skipIf (s.reg x != kk) fun _ _ => rfl
  case seReg x y _ => exact .of_skipIf (s.reg x == s.reg y) fun _ _ => rfl
  case sneReg x y _ => exact .of_skipIf (s.reg x != s.reg y) fun _ _ => rfl
  case skp x => exact .of_skipIf (s.keyDown (s.lowNibble x)) fun _ _ => rfl
  case sknp x => exact .of_skipIf (!s.keyDown (s.lowNibble x)) fun _ _ => rfl
  case jp nnn => exact .of_jumpChecked nnn fun _ _ => rfl
  case jpV0 nnn => exact .of_jumpChecked (s.offsetTarget nnn) fun _ _ => rfl
  case sys nnn =>
    refine ⟨t, id, fun b es => ?_⟩
    rw [exec_sys] at ht ⊢
    cases ht
    rw [State.cfg_withStEvents]
    split <;> rfl
  case call nnn =>
    refine ⟨t, id, fun b es => ?_⟩
    rw [exec_call] at ht ⊢
    cases ht
    rw [State.misaligned_withStEvents, State.stackFull_withStEvents]
    split
    · rfl
    · split <;> rfl
  case ret =>
    cases hstack : s.stack with
    | nil =>
      exact ⟨s.raiseFatal .stackUnderflow, id,
        fun b es => exec_ret_of_nil (s := s.withStEvents b es) hstack⟩
    | cons a rest =>
      exact ⟨(s.setStack rest).setPc a, id,
        fun b es => exec_ret_of_cons (s := s.withStEvents b es) hstack⟩
  case ldMemVx x =>
    refine ⟨t, id, fun b es => ?_⟩
    cases (exec_ldMemVx s x).symm.trans ht
    rw [exec_ldMemVx, State.dumpRegs_withStEvents]
    rfl
  case ldVxMem x =>
    refine ⟨t, id, fun b es => ?_⟩
    cases (exec_ldVxMem s x).symm.trans ht
    rw [exec_ldVxMem, State.restoreRegs_withStEvents]
    rfl
  case drw x y n =>
    refine ⟨t, id, fun b es => ?_⟩
    cases (exec_drw x y n s).symm.trans ht
    rw [exec_drw, State.drawRows_withStEvents]
    rfl
  case ldStVx x =>
    exact ⟨s.setPc (s.pc + 2), fun _ => s.reg x, fun _ _ => rfl⟩
  all_goals
    refine ⟨t, id, fun b es => ?_⟩
    cases ht
    rfl

/-- Neither does the key wait, nor any other cycle. -/
theorem blindToStEvents_cycle (s : State) : BlindToStEvents cycle s := by
  cases hrun : s.run with
  | faulted => exact ⟨s, id, fun b es => by simp [cycle, hrun]⟩
  | awaitingKey =>
    refine ⟨s.completeWait, id, fun b es => ?_⟩
    rw [cycle_of_awaitingKey (s := s.withStEvents b es) hrun]
    cases hkey : s.lowestKey with
    | none =>
      rw [State.completeWait_of_lowestKey_eq_none hkey,
        State.completeWait_of_lowestKey_eq_none (s := s.withStEvents b es) hkey]
      rfl
    | some k =>
      rw [State.completeWait_of_lowestKey_eq_some hkey,
        State.completeWait_of_lowestKey_eq_some (s := s.withStEvents b es) hkey]
      rfl
  | running =>
    cases hdec : decode (s.fetch16 s.pc) with
    | instr i =>
      obtain ⟨t, g, ht⟩ := blindToStEvents_exec i s
      exact ⟨t, g, fun b es =>
        (cycle_of_running (s := s.withStEvents b es) hrun hdec).trans (ht b es)⟩
    | unrecognized f w =>
      exact ⟨s.raiseFatal .unrecognizedSubOpcode, id,
        fun b es => cycle_of_unrecognized (s := s.withStEvents b es) hrun hdec⟩

/-- Settles O51: the cycle's two next states agree but for ST. -/
theorem noCycleReadsTheSoundTimer : Obligations.NoCycleReadsTheSoundTimer := by
  intro s t b h
  obtain ⟨u, g, hu⟩ := blindToStEvents_cycle s
  obtain rfl : t = u.withStEvents (g s.st) s.events := by
    have hs : cycle s = _ := hu s.st s.events
    simpa using h.symm.trans hs
  exact ⟨_, hu b s.events, rfl⟩

/-! ### Runs over a list of events (20_memory.md R70) -/

theorem blindToStEvents_applyEvent (e : Event) (s : State) : BlindToStEvents (applyEvent e) s := by
  cases e with
  | cycle => exact blindToStEvents_cycle s
  | tick => exact ⟨s.tick, countDown, fun _ _ => rfl⟩
  | setKey k p => exact ⟨s.setKeyDown k p, id, fun _ _ => rfl⟩
  | load image =>
    cases hacc : imageAccepted image
    · exact ⟨s, id, fun _ _ => congrArg Host.Outcome.next (State.load_rejected _ hacc)⟩
    · exact ⟨s.load image, fun _ => 0, fun _ _ => by
        simp only [applyEvent, State.load_accepted _ hacc]
        rfl⟩

theorem core_run_succ (h : step s = .next t) (n : Nat) :
    Host.Core.run core (n + 1) s = Host.Core.run core n t := by
  have hcore : core.step s = .next t := h
  simp only [Host.Core.run, hcore]

/-- Settles O13: the step takes the event off the list, the event acts without reading the list, and the rest
of the run is the rest of the events. -/
theorem everyListOfEventsIsARunOfTheMachine : Obligations.EveryListOfEventsIsARunOfTheMachine := by
  intro es
  induction es with
  | nil => exact fun s => rfl
  | cons e es ih =>
    intro s
    obtain ⟨t, g, ht⟩ := blindToStEvents_applyEvent e s
    have hstep : step { s with events := e :: es } = .next (t.withStEvents (g s.st) es) :=
      ht s.st es
    have hevent : applyEvent e { s with events := [] } = .next (t.withStEvents (g s.st) []) :=
      ht s.st []
    rw [applyEvents, hevent, List.length_cons, core_run_succ hstep]
    exact ih (t.withStEvents (g s.st) [])

end Sys2Proof.Machine
end

section
/-!
PROOFS. The sprite renderer (44_sprite_renderer.md): the byte form draws the pixel form of R196, and drawing
twice draws nothing.
-/

namespace Sys2Proof.Machine

variable {s t : State}

/-! ### Bytes and pixels -/

/-- Bit `j` of byte `k` is the pixel `(8 * (k % 8) + (7 - j), k / 8)` (10_state.md R31). -/
theorem byte_and_bit_of_pixel (k : Nat) {j : Nat} (hj : j < 8) :
    8 * (k / 8) + (8 * (k % 8) + (7 - j)) / 8 = k ∧ 7 - (8 * (k % 8) + (7 - j)) % 8 = j := by
  omega

theorem pixel_of_bit (fb : FrameBuffer) {k j : Nat} (hj : j < 8) :
    pixel fb (8 * (k % 8) + (7 - j)) (k / 8) = (fbRead fb k).getLsbD j := by
  obtain ⟨hbyte, hbit⟩ := byte_and_bit_of_pixel k hj
  rw [pixel, hbyte, hbit]

theorem fb_ext_pixel {f g : FrameBuffer}
    (h : ∀ px py, px < 64 → py < 32 → pixel f px py = pixel g px py) : f = g := by
  apply Vector.ext
  intro k hk
  have hbyte : fbRead f k = fbRead g k := by
    apply BitVec.eq_of_getLsbD_eq
    intro j hj
    rw [← pixel_of_bit f hj, ← pixel_of_bit g hj]
    exact h _ _ (by omega) (by omega)
  simpa [fbRead, hk] using hbyte

theorem byte_ne_zero_iff (b : Byte) : b ≠ 0 ↔ ∃ j, j < 8 ∧ b.getLsbD j = true := by
  constructor
  · intro hne
    by_contra hnone
    refine hne (BitVec.eq_of_getLsbD_eq fun j hj => ?_)
    simpa using fun hbit => hnone ⟨j, hj, hbit⟩
  · rintro ⟨j, -, hbit⟩ rfl
    simp at hbit

theorem xor_ne_left_iff : ∀ a b : Bool, (a ^^ b) ≠ a ↔ b = true := by decide

/-! ### One row -/

/-- The sprite byte `b`, drawn at column `x0` of row `yr`, inverts the pixel `(px, py)`. -/
def rowBit (b : Byte) (x0 yr px py : Nat) : Bool :=
  decide (py = yr ∧ x0 ≤ px ∧ px < x0 + 8) && b.getLsbD (7 - (px - x0))

theorem rowBit_iff (b : Byte) (x0 yr px py : Nat) : rowBit b x0 yr px py = true ↔
    ∃ i, i < 8 ∧ px = x0 + i ∧ py = yr ∧ b.getLsbD (7 - i) = true := by
  simp only [rowBit, Bool.and_eq_true, decide_eq_true_eq]
  constructor
  · rintro ⟨⟨hy, hmin, hmax⟩, hbit⟩
    exact ⟨px - x0, by omega, by omega, hy, hbit⟩
  · rintro ⟨i, hi, rfl, hy, hbit⟩
    exact ⟨⟨hy, by omega, by omega⟩, by rwa [Nat.add_sub_cancel_left]⟩

theorem rowBit_of_ne {b : Byte} {x0 yr px py : Nat} (h : py ≠ yr) :
    rowBit b x0 yr px py = false := by
  simp [rowBit, h]

/-- The high part of a sprite byte holds the pixels of the origin's byte (R193). -/
theorem getLsbD_spriteHigh (b : Byte) {x0 yr px py : Nat}
    (hbyte : 8 * py + px / 8 = 8 * yr + x0 / 8) (hx : x0 < 64) (hpx : px < 64) :
    (spriteHigh b (x0 % 8)).getLsbD (7 - px % 8) = rowBit b x0 yr px py := by
  rw [spriteHigh, BitVec.getLsbD_ushiftRight, rowBit]
  by_cases hmin : x0 ≤ px
  · rw [decide_eq_true (by omega), Bool.true_and]
    congr 1
    omega
  · rw [decide_eq_false (by omega), Bool.false_and, BitVec.getLsbD_of_ge _ _ (by omega)]

/-- Its low part holds those of the byte to the right (R193). -/
theorem getLsbD_spriteLow (b : Byte) {x0 yr px py : Nat}
    (hbyte : 8 * py + px / 8 = 8 * yr + x0 / 8 + 1) (hcol : x0 / 8 < 7) (hpx : px < 64) :
    (spriteLow b (x0 % 8)).getLsbD (7 - px % 8) = rowBit b x0 yr px py := by
  rw [spriteLow, BitVec.getLsbD_shiftLeft, decide_eq_true (by omega), Bool.true_and, rowBit]
  by_cases hmax : px < x0 + 8
  · rw [decide_eq_false (by omega), Bool.not_false, Bool.true_and, decide_eq_true (by omega),
      Bool.true_and]
    congr 1
    omega
  · rw [decide_eq_true (by omega), Bool.not_true, Bool.false_and, decide_eq_false (by omega),
      Bool.false_and]

/-- The mask of a row holds the row's pixels, in whichever byte of the screen they are. -/
theorem getLsbD_rowMask (b : Byte) {x0 px : Nat} (yr py : Nat) (hx : x0 < 64) (hpx : px < 64) :
    (rowMask b x0 yr (8 * py + px / 8)).getLsbD (7 - px % 8) = rowBit b x0 yr px py := by
  unfold rowMask
  split
  case isTrue hbyte => exact getLsbD_spriteHigh b hbyte hx hpx
  case isFalse hhigh =>
    split
    case isTrue hlow =>
      obtain ⟨hbyte, -, hcol⟩ := hlow
      exact getLsbD_spriteLow b hbyte hcol hpx
    case isFalse hlow =>
      rw [rowBit, decide_eq_false (by omega), Bool.false_and]
      exact BitVec.getLsbD_zero

theorem pixel_drawRow (b : Byte) {x0 px py : Nat} (yr : Nat) (p : FrameBuffer × Bool) (hx : x0 < 64)
    (hpx : px < 64) (hpy : py < 32) :
    pixel (drawRow b x0 yr p).1 px py = (pixel p.1 px py ^^ rowBit b x0 yr px py) := by
  by_cases hyr : yr < 32
  · rw [pixel, fbRead_drawRow b x0 yr _ p hx hyr, BitVec.getLsbD_xor, getLsbD_rowMask b yr py hx hpx,
      ← pixel]
  · rw [drawRow_clipped b x0 yr p (by omega), rowBit_of_ne (by omega), Bool.xor_false]

/-- One row notes a collision iff a pixel it inverts was lit (R194). -/
theorem drawRow_hit_pixel (b : Byte) {x0 : Nat} (yr : Nat) (p : FrameBuffer × Bool) (hx : x0 < 64) :
    (drawRow b x0 yr p).2 = true ↔ p.2 = true ∨ ∃ px py, px < 64 ∧ py < 32 ∧
      rowBit b x0 yr px py = true ∧ pixel p.1 px py = true := by
  by_cases hyr : yr < 32
  · rw [drawRow_hit b x0 yr p hx hyr]
    refine or_congr_right ⟨?_, ?_⟩
    · rintro ⟨k, hk, hne⟩
      obtain ⟨j, hj, hbit⟩ := (byte_ne_zero_iff _).mp hne
      obtain ⟨hlit, hmask⟩ := Bool.and_eq_true_iff.mp (BitVec.getLsbD_and.symm.trans hbit)
      obtain ⟨hbyte, hbit⟩ := byte_and_bit_of_pixel k hj
      have hrow := getLsbD_rowMask b (px := 8 * (k % 8) + (7 - j)) yr (k / 8) hx (by omega)
      rw [hbyte, hbit, hmask] at hrow
      exact ⟨_, _, by omega, by omega, hrow.symm, (pixel_of_bit p.1 hj).trans hlit⟩
    · rintro ⟨px, py, hpx, hpy, hrow, hlit⟩
      refine ⟨8 * py + px / 8, by omega, (byte_ne_zero_iff _).mpr ⟨7 - px % 8, by omega, ?_⟩⟩
      rw [BitVec.getLsbD_and, getLsbD_rowMask b yr py hx hpx, hrow, ← pixel, hlit, Bool.and_true]
  · rw [drawRow_clipped b x0 yr p (by omega)]
    refine (or_iff_left ?_).symm
    rintro ⟨px, py, -, hpy, hrow, -⟩
    rw [rowBit_of_ne (by omega)] at hrow
    cases hrow

/-! ### The first rows of a sprite -/

/-- The first `n` rows of the sprite at `I`, drawn with origin `(x0, y0)`, invert the pixel `(px, py)`. -/
def State.spriteBit (s : State) (x0 y0 px py : Nat) : Nat → Bool
  | 0 => false
  | r + 1 => s.spriteBit x0 y0 px py r ^^ rowBit (s.memRead (s.indexed r)) x0 (y0 + r) px py

theorem State.spriteBit_of_le {x0 y0 px py n : Nat} (h : y0 + n ≤ py) :
    s.spriteBit x0 y0 px py n = false := by
  induction n with
  | zero => rfl
  | succ r ih => rw [State.spriteBit, ih (by omega), rowBit_of_ne (by omega), Bool.xor_false]

/-- Different rows of a sprite invert pixels of different screen rows, so the exclusive or is an or. -/
theorem State.spriteBit_succ_iff (s : State) (x0 y0 px py r : Nat) :
    s.spriteBit x0 y0 px py (r + 1) = true ↔ s.spriteBit x0 y0 px py r = true ∨
      rowBit (s.memRead (s.indexed r)) x0 (y0 + r) px py = true := by
  rw [State.spriteBit]
  by_cases hrow : py = y0 + r
  · simp [State.spriteBit_of_le hrow.ge]
  · simp [rowBit_of_ne hrow]

theorem State.spriteBit_iff (s : State) (x0 y0 px py n : Nat) :
    s.spriteBit x0 y0 px py n = true ↔
      ∃ r, r < n ∧ rowBit (s.memRead (s.indexed r)) x0 (y0 + r) px py = true := by
  induction n with
  | zero => simp [State.spriteBit]
  | succ n ih =>
    rw [State.spriteBit_succ_iff, ih]
    constructor
    · rintro (⟨r, hr, hrow⟩ | hrow)
      · exact ⟨r, by omega, hrow⟩
      · exact ⟨n, by omega, hrow⟩
    · rintro ⟨r, hr, hrow⟩
      obtain hr | rfl := Nat.lt_succ_iff_lt_or_eq.mp hr
      · exact .inl ⟨r, hr, hrow⟩
      · exact .inr hrow

theorem State.spriteBit_congr (hmem : ∀ a, t.memRead a = s.memRead a) (hi : t.i = s.i)
    (x0 y0 px py n : Nat) : t.spriteBit x0 y0 px py n = s.spriteBit x0 y0 px py n := by
  induction n with
  | zero => rfl
  | succ r ih => rw [State.spriteBit, State.spriteBit, ih, hmem, State.indexed, State.indexed, hi]

theorem State.spriteInverts_iff (s : State) (x y : RegIx) (n : Nibble) (px py : Nat) :
    s.SpriteInverts x y n px py ↔
      s.spriteBit (s.originX x) (s.originY y) px py n.toNat = true := by
  simp only [State.spriteBit_iff, rowBit_iff]
  constructor
  · rintro ⟨r, i, hr, hi, hpx, hpy, hbit⟩
    exact ⟨r, hr, i, hi, hpx, hpy, hbit⟩
  · rintro ⟨r, hr, i, hi, hpx, hpy, hbit⟩
    exact ⟨r, i, hr, hi, hpx, hpy, hbit⟩

theorem State.pixel_drawRows (s : State) {x0 px py : Nat} (y0 n : Nat) (hx : x0 < 64) (hpx : px < 64)
    (hpy : py < 32) : pixel (s.drawRows x0 y0 n).1 px py =
      (pixel s.fb px py ^^ s.spriteBit x0 y0 px py n) := by
  induction n with
  | zero => exact (Bool.xor_false _).symm
  | succ r ih =>
    rw [State.drawRows_succ, pixel_drawRow _ _ _ hx hpx hpy, ih, State.spriteBit, Bool.xor_assoc]

/-- The collision note after the first `n` rows: each row meets the screen as it was, since the rows before it
inverted pixels of other screen rows. -/
theorem State.drawRows_hit (s : State) {x0 : Nat} (y0 n : Nat) (hx : x0 < 64) :
    (s.drawRows x0 y0 n).2 = true ↔ ∃ px py, px < 64 ∧ py < 32 ∧
      s.spriteBit x0 y0 px py n = true ∧ pixel s.fb px py = true := by
  induction n with
  | zero => simp [State.drawRows, State.spriteBit]
  | succ r ih =>
    have hbefore : ∀ {px py}, px < 64 → py < 32 →
        rowBit (s.memRead (s.indexed r)) x0 (y0 + r) px py = true →
        pixel (s.drawRows x0 y0 r).1 px py = pixel s.fb px py := by
      intro px py hpx hpy hrow
      obtain ⟨-, -, -, rfl, -⟩ := (rowBit_iff ..).mp hrow
      rw [s.pixel_drawRows y0 r hx hpx hpy, State.spriteBit_of_le (Nat.le_refl _), Bool.xor_false]
    rw [State.drawRows_succ, drawRow_hit_pixel _ _ _ hx, ih]
    simp only [State.spriteBit_succ_iff]
    constructor
    · rintro (⟨px, py, hpx, hpy, hbit, hlit⟩ | ⟨px, py, hpx, hpy, hrow, hlit⟩)
      · exact ⟨px, py, hpx, hpy, .inl hbit, hlit⟩
      · exact ⟨px, py, hpx, hpy, .inr hrow, hbefore hpx hpy hrow ▸ hlit⟩
    · rintro ⟨px, py, hpx, hpy, hbit | hrow, hlit⟩
      · exact .inl ⟨px, py, hpx, hpy, hbit, hlit⟩
      · exact .inr ⟨px, py, hpx, hpy, hrow, (hbefore hpx hpy hrow).trans hlit⟩

/-! ### DRW (R190) -/

theorem State.originX_lt (s : State) (x : RegIx) : s.originX x < 64 := Nat.mod_lt _ (by decide)

theorem collisionFlag_eq (hit : Bool) : collisionFlag hit = if hit = true then 1 else 0 := rfl

/-- Settles O38: the rows together invert the sprite's pixels and note whether one was lit; then VF and `pc`
are written. -/
theorem drwInvertsTheSpritePixelsAndReportsCollision :
    Obligations.DrwInvertsTheSpritePixelsAndReportsCollision := by
  intro x y n s
  have hx := s.originX_lt x
  have hhit := s.drawRows_hit (s.originY y) n.toNat hx
  simp only [← State.spriteInverts_iff] at hhit
  refine ⟨encodeThenDecodeIsTheInstruction (.drw x y n) rfl, _, exec_drw x y n s,
    fun px py hpx hpy => ?_, fun hlit => ?_, fun hdark => ?_, fun r hr => ?_, rfl,
    s.changesOnly_drawn _ _ _⟩
  · simp only [State.setPc_fb, State.setReg_fb, State.setFB_fb]
    rw [s.pixel_drawRows _ _ hx hpx hpy, State.spriteInverts_iff]
    exact xor_ne_left_iff _ _
  · rw [State.reg_setPc, State.reg_setReg_same, collisionFlag_eq, if_pos (hhit.mpr hlit)]
  · rw [State.reg_setPc, State.reg_setReg_same, collisionFlag_eq, if_neg (fun h => hdark (hhit.mp h))]
  · rw [State.reg_setPc, State.reg_setReg_ne _ _ hr, State.reg_setFB]

/-- Settles O39: with the same origin, memory and `I`, the second drawing inverts the same pixels again. -/
theorem drawingTwiceRestoresTheScreen : Obligations.DrawingTwiceRestoresTheScreen := by
  intro x y n s hx hy
  obtain ⟨t, ht⟩ := exec_next (.drw x y n) s
  have hframe := exec_changesOnly ht
  have hreg := instructionsWriteOnlyTheirRegisters _ _ _ ht
  have hX : t.originX x = s.originX x := by
    rw [State.originX, hreg x (by simpa [mayWriteReg] using hx), State.originX]
  have hY : t.originY y = s.originY y := by
    rw [State.originY, hreg y (by simpa [mayWriteReg] using hy), State.originY]
  have hfb : t.fb = (s.drawRows (s.originX x) (s.originY y) n.toNat).1 := by
    cases (exec_drw x y n s).symm.trans ht
    rfl
  refine ⟨t, _, ht, exec_drw x y n t, fb_ext_pixel fun px py hpx hpy => ?_⟩
  simp only [State.setPc_fb, State.setReg_fb, State.setFB_fb]
  rw [t.pixel_drawRows _ _ (t.originX_lt x) hpx hpy, hX, hY, hfb,
    s.pixel_drawRows _ _ (s.originX_lt x) hpx hpy,
    State.spriteBit_congr (hframe .mem (by simp [mayChange])) (hframe .i (by simp [mayChange])),
    Bool.xor_assoc, Bool.xor_self, Bool.xor_false]

end Sys2Proof.Machine
end
